-- ==== Sys2Proof/Word.lean ====
section
/-! DEFINITION. The widths and the smallest data of PRA-CORE: spec/00_scope.md rule R6 (TW = DW = 64, CW = 32,
AW = 64; log 15), spec/10_state.md rule R24 (a Sample) and spec/30_encoding.md rule R98 (levels and edge kinds). -/

namespace Sys2Proof

/-- Eight bits of an operation word. -/
abbrev Byte := BitVec 8

/-- `TW` = 64 bits: the operand `now` and `LASTEDGE`, in microseconds (R6, R21). -/
abbrev Time := BitVec 64

/-- `DW` = `TW` = 64 bits: a sample's duration and the three thresholds (R6, D4). -/
abbrev Duration := BitVec 64

/-- `CW` = 32 bits: `STEPCOUNT`, `SNAP`, `CURSOR`, `BITS`, the profile's counts and a sample index (R6). -/
abbrev Count := BitVec 32

/-- `AW` = 64 bits: the accumulator `CODE` (R6, R29). -/
abbrev Acc := BitVec 64

/-- A level of the receiver line (R98). -/
inductive Level where
  | low
  | high
  deriving DecidableEq, Repr, Inhabited

/-- The direction of a transition (R98): falling is high to low, rising is low to high. -/
inductive EdgeKind where
  | falling
  | rising
  deriving DecidableEq, Repr, Inhabited

/-- One entry of the sample memory (R24, R61). -/
structure Sample where
  level    : Level
  duration : Duration
  deriving DecidableEq, Repr, Inhabited

/-- What BCLR leaves in every entry: level 0, duration 0 (R41, R181). -/
def Sample.cleared : Sample := { level := .low, duration := 0#64 }

end Sys2Proof
end

