-- ==== Sys2Proof/Config.lean ====
section
/-! DEFINITION. What the spec leaves to the implementation, and the free values `any()` of spec/00_scope.md rule R9.
The free values are opaque: nothing in Lean can compute one, so whatever is proved holds for every draw. -/

namespace Sys2Proof

/-- `CAPACITY` with the one constraint rule R6 allows a model to assume: `1 <= CAPACITY <= 2^CW - 1`. -/
structure Capacity where
  val  : Nat
  pos  : 1 ≤ val
  fits : val ≤ 2 ^ 32 - 1
  deriving DecidableEq, Repr

/-- The three terminal states a finishing step can reach (R156), as the range of a draw. -/
inductive Terminal where
  | complete
  | truncated
  | error
  deriving DecidableEq, Repr, Inhabited

namespace Config

/-- DESIGN CHOICE (log 1; unsafe for a claim about `State.reset` alone). The capacity of the machine named
`State.reset`: the one spec/95_test_vectors.md uses unless a vector says otherwise. `State.powerOn` takes any. -/
def resetCapacity : Capacity := { val := 128, pos := by decide, fits := by decide }

/-- Free value (log 3): the `n`-th draw of a 64-bit value. -/
opaque freeWord : Nat → BitVec 64

/-- Free value (log 3): the `n`-th draw of a `CW`-bit value. -/
opaque freeCount : Nat → Count

/-- Free value (log 3): the `n`-th draw of one bit. -/
opaque freeFlag : Nat → Bool

/-- Free value (log 3): the `n`-th draw of a terminal state (R156). -/
opaque freeTerminal : Nat → Terminal

/-- Free value (log 3): entry `i` of the `n`-th draw of sample contents. -/
opaque freeSample : Nat → Nat → Sample

end Config

end Sys2Proof
end

