-- ==== Sys2Proof/Syntax.lean ====
section
/-! DEFINITION. The eight operations of spec/30_encoding.md rule R92 (one constructor per row of the opcode table),
their operands (R91, R93), the readable registers (spec/10_state.md R37) and the agents that issue operations
(spec/00_scope.md R11, spec/30_encoding.md R103). -/

namespace Sys2Proof

/-- The six fields of a ProtocolProfile, in the order of PRA and of format P (R27, R91). -/
structure Profile where
  bitCount           : Count
  expectedStepCount  : Count
  wakeupStepCount    : Count
  zeroOneThreshold   : Duration
  noiseCeiling       : Duration
  separatorThreshold : Duration
  deriving DecidableEq, Repr

/-- The operations. -/
inductive Instr where
  /-- `EDGE.F @now`: a falling edge of the receiver line at time `now` (R123). -/
  | edgeF (now : Time)
  /-- `EDGE.R @now`: a rising edge (R124). -/
  | edgeR (now : Time)
  /-- `BCLR`: reset the BurstBuffer (R181). -/
  | bclr
  /-- `PLOAD bc, exp, wk, z1, nc, sep`: load a profile as a unit (R182). -/
  | pload (p : Profile)
  /-- `DSTART`: start a decode (R141). -/
  | dstart
  /-- `DSTEP`: one step of the decoder's state machine (R142). -/
  | dstep
  /-- `RDREG r`: read register number `r` (R184). -/
  | rdreg (r : BitVec 4)
  /-- `RDSMP idx`: read sample `idx` (R185). -/
  | rdsmp (idx : Count)
  deriving DecidableEq, Repr

/-- The registers RDREG can read (R37). -/
inductive Reg where
  | stepCount
  | dstate
  | bits
  | error
  | code
  | cursor
  | snap
  | bitCount
  | expectedStepCount
  | wakeupStepCount
  | zeroOneThreshold
  | noiseCeiling
  | separatorThreshold
  deriving DecidableEq, Repr

/-- Who issues an operation (R11, R103). -/
inductive Agent where
  | edgeCapture
  | protocolDecoder
  | captureOwner
  | collaborator
  deriving DecidableEq, Repr

/-- The two execution contexts (R214). -/
inductive Context where
  | interrupt
  | cooperative
  deriving DecidableEq, Repr

end Sys2Proof
end

