-- ==== Sys2Proof/Machine/State.lean ====
section
/-! DEFINITION. The state of PRA-CORE (spec/10_state.md rules R20 to R43), the reasons a step can stop, and power-on
(R41, spec/70_reset_and_hazards.md R240). Plain data only. -/

namespace Sys2Proof.Machine

/-- `DSTATE`: PRA's five states and `IDLE` (R31). The codes are R97. -/
inductive DState where
  | idle
  | awaitingWakeup
  | decodingBits
  | complete
  | truncated
  | error
  deriving DecidableEq, Repr

/-- The sample memory (R24, R60): index and entry, in the canonical form of `SampleMem.wf`. An index that is not
listed reads as the cleared sample (log 13). -/
abbrev SampleMem := List (Nat × Sample)

/-- What a read returns: a register zero-extended to 64 bits (R99) or a sample word of 65 bits (R96). -/
inductive ReadData where
  | reg (v : BitVec 64)
  | sample (w : BitVec 65)
  deriving DecidableEq, Repr

/-- An operation word as it is presented to the block (R90), with the agent that issues it (R103). -/
structure Presented where
  agent : Agent
  word  : List Byte
  deriving DecidableEq, Repr

/-- The whole state. The last four fields are the model's own (INVENTORY.md, '## State'). -/
structure State where
  /-- `LASTEDGE` (R21). -/
  lastEdge  : Time
  /-- `SEEDED` (R22). -/
  seeded    : Bool
  /-- `SMP` (R24). -/
  smp       : SampleMem
  /-- `STEPCOUNT` (R25). -/
  stepCount : Count
  /-- `P` (R27). -/
  profile   : Profile
  /-- `PLOADED` (R28). -/
  ploaded   : Bool
  /-- `DSTATE` (R31). -/
  dstate    : DState
  /-- `SNAP` (R30). -/
  snap      : Count
  /-- `CURSOR` (R30). -/
  cursor    : Count
  /-- `BITS` (R32). -/
  bits      : Count
  /-- `ERROR` (R33). -/
  error     : Bool
  /-- `CODE` (R29). -/
  code      : Acc
  /-- `INIT` (R42). -/
  init      : Bool
  /-- `TAINT` (R43). -/
  taint     : Bool
  /-- The parameter `CAPACITY` (R6), written by no operation (log 1). -/
  capacity  : Capacity
  /-- The operations presented and not yet taken, in the total order of R70 (log 4). -/
  trace     : List Presented
  /-- What the last RDREG or RDSMP returned (log 8). -/
  readData  : Option ReadData
  /-- How many free values have been drawn (log 3). -/
  draws     : Nat
  deriving DecidableEq, Repr

/-- The block has no trap and no fault (R200; spec/93_implementation_defined.md part 1: "not used: the block has no
trap and no operation blocks"), so there is no reason to fault (log 16; safe). -/
inductive Fault where
  deriving DecidableEq, Repr

/-- Why the spec gives a presented operation no meaning (R9, `refuse`). Every one is safe: the run stops. -/
inductive Refusal where
  /-- An instruction still without a meaning; raised by no arm of `exec`. -/
  | notModelled (mnemonic : String)
  /-- `step`: the opcode byte is reserved (R94). -/
  | reservedOpcode
  /-- `step` and RDREG: register number 7, 14 or 15 (R94, R184). -/
  | reservedRegister
  /-- `step`: the word has not the length its opcode byte gives (R90; log 7). -/
  | malformedWord
  /-- `step`: the operation is not this agent's to issue (R103). -/
  | wrongAgent
  /-- DSTART, BCLR and PLOAD inside a decode window (R141, R181, R182, R252). -/
  | decoderBusy
  /-- DSTEP in `IDLE` or a terminal state (R142). -/
  | decoderNotBusy
  /-- DSTART before the first BCLR since power-on (R141). -/
  | bufferNeverReset
  /-- DSTART before the first PLOAD (R141, R28). -/
  | noProfile
  /-- DSTART with `STEPCOUNT = 0` (R141, R205). -/
  | emptyBuffer
  /-- RDSMP with `idx >= CAPACITY` (R185); a bit step at such an index, which no run reaches (R62; log 11). -/
  | indexOutOfRange
  deriving DecidableEq, Repr

/-- The profile registers while `PLOADED = 0`: unspecified (R41). DESIGN CHOICE zero (log 2; unsafe only for a claim
that looks at the fields themselves, since every read of them is a free value). -/
def Profile.unloaded : Profile :=
  { bitCount := 0#32, expectedStepCount := 0#32, wakeupStepCount := 0#32, zeroOneThreshold := 0#64,
    noiseCeiling := 0#64, separatorThreshold := 0#64 }

/-- Power-on with capacity `c` (R41, R240): `DSTATE = IDLE`, `PLOADED = INIT = TAINT = 0`. The rest is unspecified by
the spec: DESIGN CHOICE zero (log 2). Nothing has been presented, read or drawn. -/
def State.powerOn (c : Capacity) : State :=
  { lastEdge := 0#64, seeded := false, smp := [], stepCount := 0#32, profile := Profile.unloaded, ploaded := false,
    dstate := .idle, snap := 0#32, cursor := 0#32, bits := 0#32, error := false, code := 0#64, init := false,
    taint := false, capacity := c, trace := [], readData := none, draws := 0 }

/-- Power-on of the machine with the capacity of log 1. -/
def State.reset : State := State.powerOn Config.resetCapacity

end Sys2Proof.Machine
end

