-- ==== Sys2Proof/Machine/Flags.lean ====
section
/-! DEFINITION. The conditions of spec/10_state.md rule R35 that are not stored, the comparisons of a bit step
(spec/41_protocol_decoder.md R150 to R153) and the choice of a terminal state (R156). All comparisons are of
unsigned numbers (R10). -/

namespace Sys2Proof.Machine

/-- Busy: `AWAITING_WAKEUP` or `DECODING_BITS` (R31). -/
def State.busy (s : State) : Bool :=
  match s.dstate with
  | .idle           => false
  | .awaitingWakeup => true
  | .decodingBits   => true
  | .complete       => false
  | .truncated      => false
  | .error          => false

/-- Terminal: `COMPLETE`, `TRUNCATED` or `ERROR` (R31). -/
def State.terminal (s : State) : Bool :=
  match s.dstate with
  | .idle           => false
  | .awaitingWakeup => false
  | .decodingBits   => false
  | .complete       => true
  | .truncated      => true
  | .error          => true

/-- The buffer has no room. R26 writes `STEPCOUNT = CAPACITY`; an EDGE is accepted exactly when
`STEPCOUNT < CAPACITY` (R121), and the two agree in every reachable state (DEDUCED, log 12; safe). -/
def State.full (s : State) : Bool := decide (s.capacity.val ≤ s.stepCount.toNat)

/-- An EDGE met now would be accepted: `INIT = 1` and `STEPCOUNT < CAPACITY` (R15, R121). -/
def State.accepts (s : State) : Bool := s.init && !s.full

/-- A pair is left: `CURSOR + 2 <= SNAP` (R144). -/
def State.pairLeft (s : State) : Bool := decide (s.cursor.toNat + 2 ≤ s.snap.toNat)

/-- A pair is left below `min(SNAP, P.expectedStepCount)` (R155). -/
def State.extraPairLeft (s : State) : Bool :=
  decide (s.cursor.toNat + 2 ≤ min s.snap.toNat s.profile.expectedStepCount.toNat)

/-- The bit phase is not over: `BITS < P.bitCount` (R142). -/
def State.bitsWanted (s : State) : Bool := decide (s.bits.toNat < s.profile.bitCount.toNat)

/-- End of stream: a half strictly above `P.separatorThreshold` (R150). -/
def separatorIn (p : Profile) (lo hi : Duration) : Bool :=
  decide (p.separatorThreshold < lo) || decide (p.separatorThreshold < hi)

/-- Low-half anomaly: strictly above `P.zeroOneThreshold` (R152). -/
def lowAnomaly (p : Profile) (lo : Duration) : Bool := decide (p.zeroOneThreshold < lo)

/-- The bit is an accepted `1`: `P.zeroOneThreshold < hi < P.noiseCeiling` (R151). -/
def acceptedOne (p : Profile) (hi : Duration) : Bool :=
  decide (p.zeroOneThreshold < hi) && decide (hi < p.noiseCeiling)

/-- Noise: above `P.zeroOneThreshold` and at or above `P.noiseCeiling` (R153). -/
def noisyHigh (p : Profile) (hi : Duration) : Bool :=
  decide (p.zeroOneThreshold < hi) && !decide (hi < p.noiseCeiling)

/-- The terminal state of an untainted finish: `ERROR` if the flag is 1, else `TRUNCATED` if bits are missing, else
`COMPLETE` (R156, 90_conflicts.md C5). -/
def State.terminalState (s : State) : DState :=
  if s.error then .error
  else if s.bitsWanted then .truncated
  else .complete

end Sys2Proof.Machine
end

