-- ==== Sys2Proof/WellFormed.lean ====
section
/-! DEFINITION. Which operations have an encoding that is not reserved. The one check is the register number of
RDREG: 7, 14 and 15 are reserved (spec/30_encoding.md rules R94, R95). Every other operand is legal at every value
of its width (R93, spec/42_profile_and_host.md R183). -/

namespace Sys2Proof

def Instr.wellFormed (i : Instr) : Bool :=
  match i with
  | .edgeF _ => true
  | .edgeR _ => true
  | .bclr    => true
  | .pload _ => true
  | .dstart  => true
  | .dstep   => true
  | .rdreg r => r != 7#4 && r != 14#4 && r != 15#4
  | .rdsmp _ => true

end Sys2Proof
end

