-- ==== Sys2Proof/Decode.lean ====
section
/-! DEFINITION. Operation words (spec/30_encoding.md): the opcode map (R92), the formats (R90, R91), the reserved
encodings (R94), the register numbers (R95); a decoder total on any bytes, and after it an encoder.
A word is a list of bytes, the byte of bits 7:0 first (DESIGN CHOICE, log 6; safe: R65 leaves the packing open). -/

namespace Sys2Proof

/-- Why a word is not an operation. -/
inductive DecodeError where
  /-- No byte at all. -/
  | emptyWord
  /-- An opcode byte outside R92 (R94). -/
  | reservedOpcode (op : Byte)
  /-- RDREG 7, 14 or 15 (R94). -/
  | reservedRegister (r : BitVec 4)
  /-- Fewer bytes than the opcode's format has (R90). -/
  | shortWord
  /-- More bytes than the opcode's format has (R90). -/
  | longWord
  deriving DecidableEq, Repr

/-- The five word formats (R90). -/
inductive Format where
  | T
  | N
  | P
  | R
  | S
  deriving DecidableEq, Repr

/-- "total bits" of R91. -/
def Format.bits (f : Format) : Nat :=
  match f with
  | .T => 72
  | .N => 8
  | .P => 296
  | .R => 8
  | .S => 40

/-- What an opcode byte stands for. -/
inductive Opcode where
  | edgeF
  | edgeR
  | bclr
  | pload
  | dstart
  | dstep
  | rdreg (r : BitVec 4)
  | rdsmp
  deriving DecidableEq, Repr

/-- The opcode map (R92); every other byte is reserved (R94). -/
def opcodeOfByte (op : Byte) : Option Opcode :=
  if op = 0x00#8 then some .edgeF
  else if op = 0x01#8 then some .edgeR
  else if op = 0x10#8 then some .bclr
  else if op = 0x20#8 then some .pload
  else if op = 0x30#8 then some .dstart
  else if op = 0x31#8 then some .dstep
  else if op.extractLsb' 4 4 = 0x4#4 then some (.rdreg (op.extractLsb' 0 4))
  else if op = 0x50#8 then some .rdsmp
  else none

/-- The column "format" of R92. -/
def opcodeFormat (o : Opcode) : Format :=
  match o with
  | .edgeF   => .T
  | .edgeR   => .T
  | .bclr    => .N
  | .pload   => .P
  | .dstart  => .N
  | .dstep   => .N
  | .rdreg _ => .R
  | .rdsmp   => .S

/-- The register numbers of R95; `none` for the reserved 7, 14 and 15. -/
def regOfNumber (r : BitVec 4) : Option Reg :=
  match r.toNat with
  | 0  => some .stepCount
  | 1  => some .dstate
  | 2  => some .bits
  | 3  => some .error
  | 4  => some .code
  | 5  => some .cursor
  | 6  => some .snap
  | 8  => some .bitCount
  | 9  => some .expectedStepCount
  | 10 => some .wakeupStepCount
  | 11 => some .zeroOneThreshold
  | 12 => some .noiseCeiling
  | 13 => some .separatorThreshold
  | _  => none

/-- The number of a register (R95). -/
def numberOfReg (g : Reg) : BitVec 4 :=
  match g with
  | .stepCount          => 0#4
  | .dstate             => 1#4
  | .bits               => 2#4
  | .error              => 3#4
  | .code               => 4#4
  | .cursor             => 5#4
  | .snap               => 6#4
  | .bitCount           => 8#4
  | .expectedStepCount  => 9#4
  | .wakeupStepCount    => 10#4
  | .zeroOneThreshold   => 11#4
  | .noiseCeiling       => 12#4
  | .separatorThreshold => 13#4

/-- The next `n` bytes as one number, the first byte least significant, and what follows them. -/
def takeField (n : Nat) (bytes : List Byte) : Option (Nat × List Byte) :=
  match n, bytes with
  | 0, rest => some (0, rest)
  | _ + 1, [] => none
  | n + 1, b :: rest =>
    match takeField n rest with
    | none => none
    | some (v, rest') => some (b.toNat + 256 * v, rest')

/-- A `CW`-bit field. -/
def takeCount (bytes : List Byte) : Option (Count × List Byte) :=
  match takeField 4 bytes with
  | none => none
  | some (v, rest) => some (BitVec.ofNat 32 v, rest)

/-- A `TW`-bit or `DW`-bit field. -/
def takeTime (bytes : List Byte) : Option (Time × List Byte) :=
  match takeField 8 bytes with
  | none => none
  | some (v, rest) => some (BitVec.ofNat 64 v, rest)

/-- The payload of format P: bits 39:8, 71:40, 103:72, 167:104, 231:168, 295:232 (R91). -/
def takeProfile (bytes : List Byte) : Option (Profile × List Byte) := do
  let (bc, b1) ← takeCount bytes
  let (ex, b2) ← takeCount b1
  let (wk, b3) ← takeCount b2
  let (z1, b4) ← takeTime b3
  let (nc, b5) ← takeTime b4
  let (sp, b6) ← takeTime b5
  pure ({ bitCount := bc, expectedStepCount := ex, wakeupStepCount := wk, zeroOneThreshold := z1,
          noiseCeiling := nc, separatorThreshold := sp }, b6)

/-- Turn a payload into the operation, or name the missing bytes. -/
def withPayload {α : Type} (field : Option (α × List Byte)) (mk : α → Instr) :
    Except DecodeError (Instr × List Byte) :=
  match field with
  | none => .error .shortWord
  | some (v, rest) => .ok (mk v, rest)

/-- Read the low byte, then the payload its format has (R90); the bytes above the word are handed back. -/
def decodePrefix (bytes : List Byte) : Except DecodeError (Instr × List Byte) :=
  match bytes with
  | [] => .error .emptyWord
  | op :: rest =>
    match opcodeOfByte op with
    | none => .error (.reservedOpcode op)
    | some .edgeF => withPayload (takeTime rest) .edgeF
    | some .edgeR => withPayload (takeTime rest) .edgeR
    | some .bclr => .ok (.bclr, rest)
    | some .pload => withPayload (takeProfile rest) .pload
    | some .dstart => .ok (.dstart, rest)
    | some .dstep => .ok (.dstep, rest)
    | some (.rdreg r) =>
      match regOfNumber r with
      | none => .error (.reservedRegister r)
      | some _ => .ok (.rdreg r, rest)
    | some .rdsmp => withPayload (takeCount rest) .rdsmp

/-- A whole operation word: there is one length per format (R90), so bytes left over are an error. -/
def decode (word : List Byte) : Except DecodeError Instr :=
  match decodePrefix word with
  | .error e => .error e
  | .ok (i, []) => .ok i
  | .ok (_, _ :: _) => .error .longWord

/-- The low `n` bytes of a number, the least significant first. -/
def leBytes (n : Nat) (v : Nat) : List Byte :=
  match n with
  | 0 => []
  | n + 1 => BitVec.ofNat 8 v :: leBytes n (v / 256)

/-- The number a list of bytes stands for: the operation word of R90 written as one number. -/
def wordNumber (word : List Byte) : Nat :=
  match word with
  | [] => 0
  | b :: rest => b.toNat + 256 * wordNumber rest

/-- The opcode byte of an operation (R92). -/
def opcodeByte (i : Instr) : Byte :=
  match i with
  | .edgeF _ => 0x00#8
  | .edgeR _ => 0x01#8
  | .bclr    => 0x10#8
  | .pload _ => 0x20#8
  | .dstart  => 0x30#8
  | .dstep   => 0x31#8
  | .rdreg r => 0x4#4 ++ r
  | .rdsmp _ => 0x50#8

/-- The bytes above the opcode byte (R91). -/
def payloadBytes (i : Instr) : List Byte :=
  match i with
  | .edgeF now => leBytes 8 now.toNat
  | .edgeR now => leBytes 8 now.toNat
  | .bclr      => []
  | .pload p   =>
    leBytes 4 p.bitCount.toNat ++ (leBytes 4 p.expectedStepCount.toNat ++
    (leBytes 4 p.wakeupStepCount.toNat ++ (leBytes 8 p.zeroOneThreshold.toNat ++
    (leBytes 8 p.noiseCeiling.toNat ++ leBytes 8 p.separatorThreshold.toNat))))
  | .dstart    => []
  | .dstep     => []
  | .rdreg _   => []
  | .rdsmp idx => leBytes 4 idx.toNat

/-- The operation word of an operation (R90, R91, R92). -/
def encode (i : Instr) : List Byte := opcodeByte i :: payloadBytes i

/-- The longest word, format P, in bytes (R91). -/
def longestWord : Nat := 37

/-- The bytes of a table word: bits above `nbits` are 0, up to the longest word. -/
def tableBytes (nbits w : Nat) : List Byte :=
  leBytes (nbits / 8) w ++ List.replicate (longestWord - nbits / 8) 0#8

/-- What the decoder reads from the word whose low `nbits` bits are `w`. -/
def decodeTableWord (nbits w : Nat) : Option Instr :=
  match decodePrefix (tableBytes nbits w) with
  | .ok (i, _) => some i
  | .error _ => none

end Sys2Proof
end

