-- ==== Sys2Proof/Machine/Operands.lean ====
section
/-! DEFINITION. Operand forms and data encodings: the bits of a level and a sample word (R98, R96), the codes of
DSTATE (R97), the level an edge records (R93, R125), the two addressing forms (R64), and the register space
(R37). -/

namespace Sys2Proof.Machine

/-- A level as a bit: 0 is low, 1 is high (R98). -/
def levelBit (l : Level) : BitVec 1 :=
  match l with
  | .low  => 0#1
  | .high => 1#1

/-- The level that just ended, `NOT k`: a falling edge closes a high sample, a rising edge a low one (R93, R125). -/
def levelEnded (k : EdgeKind) : Level :=
  match k with
  | .falling => .high
  | .rising  => .low

/-- The sample word `level || duration`, level in bit 64 (R96). -/
def sampleWord (x : Sample) : BitVec 65 := levelBit x.level ++ x.duration

/-- The codes of `DSTATE` (R97). -/
def dstateCode (d : DState) : BitVec 3 :=
  match d with
  | .idle           => 0#3
  | .awaitingWakeup => 1#3
  | .decodingBits   => 2#3
  | .complete       => 3#3
  | .truncated      => 4#3
  | .error          => 5#3

/-- The terminal state as a value of `DSTATE`. -/
def dstateOfTerminal (t : Terminal) : DState :=
  match t with
  | .complete  => .complete
  | .truncated => .truncated
  | .error     => .error

/-- Append form: an EDGE writes the entry `STEPCOUNT` (R64). -/
def State.appendIndex (s : State) : Nat := s.stepCount.toNat

/-- Cursor pair: the low half of a bit step is the entry `CURSOR` (R64). -/
def State.lowIndex (s : State) : Nat := s.cursor.toNat

/-- Cursor pair: the high half is the entry `CURSOR + 1` (R64). -/
def State.highIndex (s : State) : Nat := s.cursor.toNat + 1

/-- A register zero-extended to 64 bits (R37, R99). -/
def State.regValue (s : State) (g : Reg) : BitVec 64 :=
  match g with
  | .stepCount          => s.stepCount.setWidth 64
  | .dstate             => (dstateCode s.dstate).setWidth 64
  | .bits               => s.bits.setWidth 64
  | .error              => (BitVec.ofBool s.error).setWidth 64
  | .code               => s.code
  | .cursor             => s.cursor.setWidth 64
  | .snap               => s.snap.setWidth 64
  | .bitCount           => s.profile.bitCount.setWidth 64
  | .expectedStepCount  => s.profile.expectedStepCount.setWidth 64
  | .wakeupStepCount    => s.profile.wakeupStepCount.setWidth 64
  | .zeroOneThreshold   => s.profile.zeroOneThreshold
  | .noiseCeiling       => s.profile.noiseCeiling
  | .separatorThreshold => s.profile.separatorThreshold

/-- When RDREG returns `any()` (R184): the count before the first BCLR, the decoder's registers before the first
DSTART, the profile before the first PLOAD. `DSTATE` is always specified. -/
def State.regUnspecified (s : State) (g : Reg) : Bool :=
  match g with
  | .stepCount          => !s.init
  | .dstate             => false
  | .bits               => s.dstate == .idle
  | .error              => s.dstate == .idle
  | .code               => s.dstate == .idle
  | .cursor             => s.dstate == .idle
  | .snap               => s.dstate == .idle
  | .bitCount           => !s.ploaded
  | .expectedStepCount  => !s.ploaded
  | .wakeupStepCount    => !s.ploaded
  | .zeroOneThreshold   => !s.ploaded
  | .noiseCeiling       => !s.ploaded
  | .separatorThreshold => !s.ploaded

end Sys2Proof.Machine
end

