-- ==== Sys2Proof/Machine/Ops.lean ====
section
/-! DEFINITION. The shared operations: the sample memory (spec/20_memory.md R62, R63), draws of free values (R9), and
one named state update for each thing an operation of the spec writes. The block takes no exception (R200): the one
interrupt, an edge of the line, is taken by running `State.edge` as one step, and there is no return (R211, R212). -/

namespace Sys2Proof.Machine

/-! ## The sample memory -/

/-- The entry at an index; one that is not listed is cleared (log 13). -/
def SampleMem.read (m : SampleMem) (i : Nat) : Sample :=
  match m with
  | [] => Sample.cleared
  | (j, x) :: rest => if j = i then x else SampleMem.read rest i

/-- Write an entry, keeping the canonical form: writing the cleared sample removes the entry. -/
def SampleMem.write (m : SampleMem) (i : Nat) (x : Sample) : SampleMem :=
  match m with
  | [] => if x = Sample.cleared then [] else [(i, x)]
  | (j, y) :: rest =>
    if i < j then (if x = Sample.cleared then (j, y) :: rest else (i, x) :: (j, y) :: rest)
    else if i = j then (if x = Sample.cleared then rest else (i, x) :: rest)
    else (j, y) :: SampleMem.write rest i x

/-- Indices strictly rising from `lo` on, and no entry cleared. -/
def SampleMem.wfFrom (lo : Nat) (m : SampleMem) : Bool :=
  match m with
  | [] => true
  | (j, x) :: rest => decide (lo ≤ j) && (x != Sample.cleared) && SampleMem.wfFrom (j + 1) rest

/-- The canonical form: equal memories are equal lists. -/
def SampleMem.wf (m : SampleMem) : Bool := SampleMem.wfFrom 0 m

/-- Every listed index is below `cap`: the sample space is `0 .. CAPACITY-1` (R60). -/
def SampleMem.below (cap : Nat) (m : SampleMem) : Bool := m.all fun e => decide (e.1 < cap)

/-- The entries `lo .. lo + n - 1` drawn from `f`, in canonical form. -/
def SampleMem.drawnFrom (f : Nat → Sample) (lo n : Nat) : SampleMem :=
  match n with
  | 0 => []
  | n + 1 =>
    if f lo = Sample.cleared then SampleMem.drawnFrom f (lo + 1) n
    else (lo, f lo) :: SampleMem.drawnFrom f (lo + 1) n

/-- `SmpRead(i)` (R62): none at or above `CAPACITY`; before the first BCLR a drawn sample, which uses up one draw. -/
def State.smpRead (s : State) (i : Nat) : Option (Sample × State) :=
  if s.capacity.val ≤ i then none
  else if s.init then some (SampleMem.read s.smp i, s)
  else some (Config.freeSample s.draws i, { s with draws := s.draws + 1 })

/-! ## EdgeCapture (R121) -/

/-- `SMP`, `STEPCOUNT`, `SEEDED`, `LASTEDGE` "stay unspecified": each is drawn (R121, R42; log 9). -/
def State.drawCapture (s : State) : State :=
  { s with
    smp := SampleMem.drawnFrom (Config.freeSample s.draws) 0 s.capacity.val
    stepCount := Config.freeCount (s.draws + 1)
    seeded := Config.freeFlag (s.draws + 2)
    lastEdge := Config.freeWord (s.draws + 3)
    draws := s.draws + 4 }

/-- An accepted EDGE inside a decode window sets `TAINT` (R43). -/
def State.noteWindow (s : State) : State := { s with taint := s.taint || s.busy }

/-- The first EDGE since the buffer reset: "seed the timestamp and emit nothing". -/
def State.seed (s : State) (now : Time) : State := { s with lastEdge := now, seeded := true }

/-- Append one sample: the level that just ended, the time since the last edge modulo `2^TW` (R122, R125). -/
def State.commit (s : State) (k : EdgeKind) (now : Time) : State :=
  { s with
    smp := SampleMem.write s.smp s.appendIndex { level := levelEnded k, duration := now - s.lastEdge }
    stepCount := s.stepCount + 1#32
    lastEdge := now }

/-- The procedure `Edge(k, now)` (R121). -/
def State.edge (s : State) (k : EdgeKind) (now : Time) : State :=
  if s.init then
    if s.full then s
    else if s.seeded then s.noteWindow.commit k now
    else s.noteWindow.seed now
  else s.drawCapture

/-! ## The capture owner (R181, R182) -/

/-- BCLR's writes: every entry cleared, `STEPCOUNT = 0`, `SEEDED = 0`, `INIT = 1`; `LASTEDGE` is not written. -/
def State.clearBuffer (s : State) : State :=
  { s with smp := [], stepCount := 0#32, seeded := false, init := true }

/-- PLOAD's writes: the six fields as a unit, and `PLOADED`. -/
def State.loadProfile (s : State) (p : Profile) : State := { s with profile := p, ploaded := true }

/-! ## ProtocolDecoder (R141 to R156) -/

/-- DSTART's writes (R141). -/
def State.beginDecode (s : State) : State :=
  { s with snap := s.stepCount, cursor := 0#32, code := 0#64, bits := 0#32, error := false, taint := false,
           dstate := .awaitingWakeup }

/-- `WakeStep()` (R143): the cursor passes `min(P.wakeupStepCount, SNAP)` samples, none of them read. -/
def State.wakeStep (s : State) : State :=
  { s with cursor := if s.profile.wakeupStepCount ≤ s.snap then s.profile.wakeupStepCount else s.snap,
           dstate := .decodingBits }

/-- `Finish()` of a tainted window (R156): four registers and the terminal state are drawn (log 17). -/
def State.finishTainted (s : State) : State :=
  { s with
    code := Config.freeWord s.draws
    bits := Config.freeCount (s.draws + 1)
    error := Config.freeFlag (s.draws + 2)
    cursor := Config.freeCount (s.draws + 3)
    dstate := dstateOfTerminal (Config.freeTerminal (s.draws + 4))
    draws := s.draws + 5 }

/-- `Finish()` of a clean window (R156): `DSTATE` only. -/
def State.finishClean (s : State) : State := { s with dstate := s.terminalState }

/-- `Finish()` (R156). -/
def State.finish (s : State) : State := if s.taint then s.finishTainted else s.finishClean

/-- The part of a bit step after the separator check: anomalies, shift, bit, counters (R151 to R154). -/
def State.consumePair (s : State) (lo hi : Duration) : State :=
  { s with
    error := s.error || lowAnomaly s.profile lo || noisyHigh s.profile hi
    code := (s.code <<< 1) ||| (if acceptedOne s.profile hi then 1#64 else 0#64)
    bits := s.bits + 1#32
    cursor := s.cursor + 2#32 }

/-- An extra pair is passed unread (R155). -/
def State.skipPair (s : State) : State := { s with cursor := s.cursor + 2#32 }

/-- What a bit step does with a pair it has read: the separator check comes first (R150, R210). -/
def State.takePair (s : State) (lo hi : Duration) : State :=
  if separatorIn s.profile lo hi then s.finish else s.consumePair lo hi

/-! ## Reads (R184, R185) -/

/-- Return read data (log 8). -/
def State.setRead (s : State) (d : ReadData) : State := { s with readData := some d }

/-- Return `any()` from RDREG: a drawn 64-bit value (R184; log 10). -/
def State.drawRead (s : State) : State :=
  { s with readData := some (.reg (Config.freeWord s.draws)), draws := s.draws + 1 }

end Sys2Proof.Machine
end

