-- ==== Sys2Proof/Machine/Agents.lean ====
section
/-! DEFINITION. How an operation reaches the block: who may issue it (spec/30_encoding.md R103, spec/60_exceptions.md
R214), and how the next presented word is taken (R90, R101). -/

namespace Sys2Proof.Machine

/-- The context an agent runs in (R214). -/
def contextOf (a : Agent) : Context :=
  match a with
  | .edgeCapture     => .interrupt
  | .protocolDecoder => .cooperative
  | .captureOwner    => .cooperative
  | .collaborator    => .cooperative

/-- Which agent may issue which operation (R103). -/
def mayIssue (a : Agent) (i : Instr) : Bool :=
  match i with
  | .edgeF _ => a == .edgeCapture
  | .edgeR _ => a == .edgeCapture
  | .bclr    => a == .captureOwner
  | .pload _ => a == .captureOwner
  | .dstart  => a == .captureOwner
  | .dstep   => a == .protocolDecoder
  | .rdreg _ => a == .captureOwner || a == .collaborator
  | .rdsmp _ => a == .captureOwner || a == .collaborator

/-- The agent R92 names for an operation ("issued by"). -/
def ownAgent (i : Instr) : Agent :=
  match i with
  | .edgeF _ => .edgeCapture
  | .edgeR _ => .edgeCapture
  | .bclr    => .captureOwner
  | .pload _ => .captureOwner
  | .dstart  => .captureOwner
  | .dstep   => .protocolDecoder
  | .rdreg _ => .captureOwner
  | .rdsmp _ => .captureOwner

/-- An operation as its own agent presents it. -/
def presentOwn (i : Instr) : Presented := { agent := ownAgent i, word := encode i }

/-- The name under which a word that is no operation is refused (R94; log 7). -/
def refusalOf (e : DecodeError) : Refusal :=
  match e with
  | .emptyWord          => .malformedWord
  | .reservedOpcode _   => .reservedOpcode
  | .reservedRegister _ => .reservedRegister
  | .shortWord          => .malformedWord
  | .longWord           => .malformedWord

/-- What a presented word asks for, if the word is an operation and the agent may issue it. -/
def receive (p : Presented) : Except Refusal Instr :=
  match decode p.word with
  | .error e => .error (refusalOf e)
  | .ok i => if mayIssue p.agent i then .ok i else .error .wrongAgent

/-- The next presented word, and the state that waits for the ones after it. -/
def takeNext (s : State) : Option (Presented × State) :=
  match s.trace with
  | [] => none
  | p :: rest => some (p, { s with trace := rest })

/-- The presentation of a table word: its bytes cut to the length of the operation they begin with, issued by the
agent R92 names for it; a word that is no operation is presented by the capture owner. -/
def presentTableWord (nbits w : Nat) : Presented :=
  match decodePrefix (tableBytes nbits w) with
  | .ok (i, rest) =>
    { agent := ownAgent i, word := (tableBytes nbits w).take ((tableBytes nbits w).length - rest.length) }
  | .error _ => { agent := .captureOwner, word := (tableBytes nbits w).take (nbits / 8) }

end Sys2Proof.Machine
end

