-- ==== Sys2Proof/Machine/CaptureOwner.lean ====
section
/-! DEFINITION. The capture owner's operations: BCLR, PLOAD, RDREG, RDSMP (spec/42_profile_and_host.md). -/

namespace Sys2Proof.Machine

/-- `BCLR` (R181). -/
def execBclr (s : State) : Host.Outcome State Fault Refusal :=
  if s.busy then .refused .decoderBusy else .next s.clearBuffer

/-- `PLOAD` (R182). -/
def execPload (p : Profile) (s : State) : Host.Outcome State Fault Refusal :=
  if s.busy then .refused .decoderBusy else .next (s.loadProfile p)

/-- `RDREG r` (R184). -/
def execRdreg (r : BitVec 4) (s : State) : Host.Outcome State Fault Refusal :=
  match regOfNumber r with
  | none => .refused .reservedRegister
  | some g => if s.regUnspecified g then .next s.drawRead else .next (s.setRead (.reg (s.regValue g)))

/-- `RDSMP idx` (R185). -/
def execRdsmp (idx : Count) (s : State) : Host.Outcome State Fault Refusal :=
  match s.smpRead idx.toNat with
  | none => .refused .indexOutOfRange
  | some (x, s') => .next (s'.setRead (.sample (sampleWord x)))

end Sys2Proof.Machine
end

