-- ==== Sys2Proof/Machine/Decoder.lean ====
section
/-! DEFINITION. ProtocolDecoder: DSTART and DSTEP (spec/41_protocol_decoder.md). -/

namespace Sys2Proof.Machine

/-- `DSTART` (R141): the four refusals in the order of the pseudocode, then the initialisation. -/
def execDstart (s : State) : Host.Outcome State Fault Refusal :=
  if !s.init then .refused .bufferNeverReset
  else if !s.ploaded then .refused .noProfile
  else if s.busy then .refused .decoderBusy
  else if s.stepCount = 0#32 then .refused .emptyBuffer
  else .next s.beginDecode

/-- `BitStep()` (R144): the pair test, the reads of both halves, then R150 to R154. The two reads succeed in every
reachable state, whose `SNAP` is at most `CAPACITY` (R40, R62; log 11). -/
def bitStep (s : State) : Host.Outcome State Fault Refusal :=
  if s.pairLeft then
    match s.smpRead s.lowIndex with
    | none => .refused .indexOutOfRange
    | some (lo, s1) =>
      match s1.smpRead s1.highIndex with
      | none => .refused .indexOutOfRange
      | some (hi, s2) => .next (s2.takePair lo.duration hi.duration)
  else .next s.finish

/-- `ExtraStep()` (R155). -/
def extraStep (s : State) : Host.Outcome State Fault Refusal :=
  if s.extraPairLeft then .next s.skipPair else .next s.finish

/-- `DSTEP` (R142). -/
def execDstep (s : State) : Host.Outcome State Fault Refusal :=
  match s.dstate with
  | .idle           => .refused .decoderNotBusy
  | .awaitingWakeup => .next s.wakeStep
  | .decodingBits   => if s.bitsWanted then bitStep s else extraStep s
  | .complete       => .refused .decoderNotBusy
  | .truncated      => .refused .decoderNotBusy
  | .error          => .refused .decoderNotBusy

end Sys2Proof.Machine
end

