-- ==== Sys2Proof/Machine/EdgeCapture.lean ====
section
/-! DEFINITION. EdgeCapture: EDGE.F and EDGE.R (spec/40_edge_capture.md). Neither is ever refused (R123, R126). -/

namespace Sys2Proof.Machine

/-- `EDGE.F @now` is `Edge(0, now)` (R123). -/
def execEdgeF (now : Time) (s : State) : Host.Outcome State Fault Refusal := .next (s.edge .falling now)

/-- `EDGE.R @now` is `Edge(1, now)` (R124). -/
def execEdgeR (now : Time) (s : State) : Host.Outcome State Fault Refusal := .next (s.edge .rising now)

end Sys2Proof.Machine
end

