-- ==== Sys2Proof/Machine/Dispatch.lean ====
section
/-! DEFINITION. One arm per operation of spec/30_encoding.md rule R92. -/

namespace Sys2Proof.Machine

def exec (i : Instr) (s : State) : Host.Outcome State Fault Refusal :=
  match i with
  | .edgeF now => Sys2Proof.Machine.execEdgeF now s
  | .edgeR now => Sys2Proof.Machine.execEdgeR now s
  | .bclr => Sys2Proof.Machine.execBclr s
  | .pload p => Sys2Proof.Machine.execPload p s
  | .dstart => Sys2Proof.Machine.execDstart s
  | .dstep => Sys2Proof.Machine.execDstep s
  | .rdreg r => Sys2Proof.Machine.execRdreg r s
  | .rdsmp idx => Sys2Proof.Machine.execRdsmp idx s

end Sys2Proof.Machine
end

