-- ==== Sys2Proof/Machine/Step.lean ====
section
/-! DEFINITION. One step: take the next presented operation word in the total order of spec/20_memory.md rule R70 and
run it as one atomic step. With nothing presented no agent acts and nothing changes (DESIGN CHOICE, log 4; safe). -/

namespace Sys2Proof.Machine

def step (s : State) : Host.Outcome State Fault Refusal :=
  match takeNext s with
  | none => .next s
  | some (p, s') =>
    match receive p with
    | .error r => .refused r
    | .ok i => exec i s'

/-- `s` with a table word presented before anything else (log 4). -/
def State.withFetchWord (s : State) (nbits w : Nat) : State :=
  { s with trace := presentTableWord nbits w :: s.trace }

end Sys2Proof.Machine
end

