-- ==== Sys2Proof/Machine/TraceText.lean ====
section
/-! DEFINITION. The trace syntax of spec/30_encoding.md rule R101: one operation a line, `<n>` decimal or `0x`
hexadecimal (an underscore separates digits, R8), `;` starts a comment, a read's result stands after "->". Words are
separated by blanks; a number too large for its field is no operation (DESIGN CHOICE, log 18; safe). -/

namespace Sys2Proof.Machine

def isBlank (c : Char) : Bool := c == ' ' || c == '\t' || c == '\r'

/-- The part of a line before its comment. -/
def dropComment (cs : List Char) : List Char := cs.takeWhile (· != ';')

/-- The words of a line; `acc` is the word being read, last character first. -/
def splitWords (acc : List Char) (cs : List Char) : List (List Char) :=
  match cs with
  | [] => if acc.isEmpty then [] else [acc.reverse]
  | c :: rest =>
    if isBlank c then (if acc.isEmpty then splitWords [] rest else acc.reverse :: splitWords [] rest)
    else splitWords (c :: acc) rest

def digitValue (c : Char) : Option Nat :=
  if '0'.toNat ≤ c.toNat ∧ c.toNat ≤ '9'.toNat then some (c.toNat - '0'.toNat)
  else if 'a'.toNat ≤ c.toNat ∧ c.toNat ≤ 'f'.toNat then some (c.toNat - 'a'.toNat + 10)
  else if 'A'.toNat ≤ c.toNat ∧ c.toNat ≤ 'F'.toNat then some (c.toNat - 'A'.toNat + 10)
  else none

/-- Digits in a base, onto the value read so far. R8 has an underscore "inside a literal" as a digit separator; the
model takes one underscore between two digits and nothing else (DESIGN CHOICE, log 18; safe), so one that ends the
literal, or stands beside another, makes it no number; `number` keeps one from the front. -/
def digitsOnto (base v : Nat) (cs : List Char) : Option Nat :=
  match cs with
  | [] => some v
  | c :: rest =>
    if c == '_' then
      match rest with
      | [] => none
      | next :: _ => if next == '_' then none else digitsOnto base v rest
    else
      match digitValue c with
      | none => none
      | some d => if d < base then digitsOnto base (v * base + d) rest else none

/-- `<n>` below `2 ^ width`; no literal begins with an underscore, before or after its `0x` (DESIGN CHOICE, log 18). -/
def number (width : Nat) (cs : List Char) : Option (BitVec width) :=
  let value := match cs with
    | [] => none
    | '0' :: 'x' :: [] => none
    | '0' :: 'x' :: '_' :: _ => none
    | '_' :: _ => none
    | '0' :: 'x' :: digits => digitsOnto 16 0 digits
    | digits => digitsOnto 10 0 digits
  match value with
  | none => none
  | some v => if v < 2 ^ width then some (BitVec.ofNat width v) else none

/-- `key<n>`. -/
def keyed (key : String) (width : Nat) (cs : List Char) : Option (BitVec width) :=
  if key.toList.isPrefixOf cs then number width (cs.drop key.toList.length) else none

/-- A register's name (R95). -/
def regOfName (cs : List Char) : Option Reg :=
  if cs = "STEPCOUNT".toList then some .stepCount
  else if cs = "DSTATE".toList then some .dstate
  else if cs = "BITS".toList then some .bits
  else if cs = "ERROR".toList then some .error
  else if cs = "CODE".toList then some .code
  else if cs = "CURSOR".toList then some .cursor
  else if cs = "SNAP".toList then some .snap
  else if cs = "P.bitCount".toList then some .bitCount
  else if cs = "P.expectedStepCount".toList then some .expectedStepCount
  else if cs = "P.wakeupStepCount".toList then some .wakeupStepCount
  else if cs = "P.zeroOneThreshold".toList then some .zeroOneThreshold
  else if cs = "P.noiseCeiling".toList then some .noiseCeiling
  else if cs = "P.separatorThreshold".toList then some .separatorThreshold
  else none

/-- RDREG's operand: a name or a number. -/
def regOperand (cs : List Char) : Option (BitVec 4) :=
  match regOfName cs with
  | some g => some (numberOfReg g)
  | none => number 4 cs

/-- The operation the words of a line stand for. -/
def operationOfWords (ws : List (List Char)) : Option Instr :=
  match ws with
  | [m] =>
    if m = "BCLR".toList then some .bclr
    else if m = "DSTART".toList then some .dstart
    else if m = "DSTEP".toList then some .dstep
    else none
  | [m, a] =>
    if m = "EDGE.F".toList then (keyed "@" 64 a).map .edgeF
    else if m = "EDGE.R".toList then (keyed "@" 64 a).map .edgeR
    else if m = "RDREG".toList then (regOperand a).map .rdreg
    else if m = "RDSMP".toList then (number 32 a).map .rdsmp
    else none
  | [m, bc, ex, wk, z1, nc, sp] =>
    if m = "PLOAD".toList then do
      let bitCount ← keyed "bc=" 32 bc
      let expectedStepCount ← keyed "exp=" 32 ex
      let wakeupStepCount ← keyed "wk=" 32 wk
      let zeroOneThreshold ← keyed "z1=" 64 z1
      let noiseCeiling ← keyed "nc=" 64 nc
      let separatorThreshold ← keyed "sep=" 64 sp
      pure (.pload { bitCount, expectedStepCount, wakeupStepCount, zeroOneThreshold, noiseCeiling,
                     separatorThreshold })
    else none
  | _ => none

/-- A line of a trace: no operation on an empty line, `none` where the line is no operation of R101. -/
def assembleLine (line : String) : Option (List Instr) :=
  match (splitWords [] (dropComment line.toList)).takeWhile (· != "->".toList) with
  | [] => some []
  | ws => (operationOfWords ws).map fun i => [i]

/-- A trace, line by line. -/
def assemble (lines : List String) : Option (List Instr) :=
  match lines with
  | [] => some []
  | line :: rest => do
    let i ← assembleLine line
    let is ← assemble rest
    pure (i ++ is)

end Sys2Proof.Machine
end

