-- ==== Sys2Proof/Machine/PureDecode.lean ====
section
/-! DEFINITION. The decoder as a pure function of a sequence of durations, a count and a profile, written from
spec/41_protocol_decoder.md rule R157 and from nothing of DSTEP, so that the two can be compared (R158). -/

namespace Sys2Proof.Machine

/-- PRA's `DecodedCommand` (R34). -/
structure DecodedCommand where
  code         : Acc
  bitsConsumed : Nat
  error        : Bool
  deriving DecidableEq, Repr

/-- What one pair that is no separator does to the result (R157, the body of the loop). -/
def pureBit (p : Profile) (lo hi : Duration) (r : DecodedCommand) : DecodedCommand :=
  if hi ≤ p.zeroOneThreshold then
    { code := r.code <<< 1, bitsConsumed := r.bitsConsumed + 1, error := r.error || decide (lo > p.zeroOneThreshold) }
  else if hi < p.noiseCeiling then
    { code := (r.code <<< 1) ||| 1#64, bitsConsumed := r.bitsConsumed + 1,
      error := r.error || decide (lo > p.zeroOneThreshold) }
  else
    { code := r.code <<< 1, bitsConsumed := r.bitsConsumed + 1, error := true }

/-- The bit phase from index `i`: "while bits < P.bc and i + 2 <= n". At most `fuel` pairs. -/
def pureLoop (dur : Nat → Duration) (n : Nat) (p : Profile) (fuel i : Nat) (r : DecodedCommand) : DecodedCommand :=
  match fuel with
  | 0 => r
  | fuel + 1 =>
    if r.bitsConsumed < p.bitCount.toNat ∧ i + 2 ≤ n then
      if dur i > p.separatorThreshold ∨ dur (i + 1) > p.separatorThreshold then r
      else pureLoop dur n p fuel (i + 2) (pureBit p (dur i) (dur (i + 1)) r)
    else r

/-- `decode(S, n, P)` (R157). The extra-steps phase changes none of the three. -/
def pureDecode (dur : Nat → Duration) (n : Nat) (p : Profile) : DecodedCommand :=
  pureLoop dur n p n (min p.wakeupStepCount.toNat n) { code := 0#64, bitsConsumed := 0, error := false }

/-- `terminal(bits, err, P)` (R157). -/
def pureTerminal (r : DecodedCommand) (p : Profile) : DState :=
  if r.error then .error
  else if r.bitsConsumed < p.bitCount.toNat then .truncated
  else .complete

/-- The `DecodedCommand` in the decoder's registers (R34, R99); a result only in a terminal state (R259). -/
def State.command (s : State) : DecodedCommand :=
  { code := s.code, bitsConsumed := s.bits.toNat, error := s.error }

end Sys2Proof.Machine
end

