-- ==== Sys2Proof/Machine/Trace.lean ====
section
/-! DEFINITION. Sequences of operations, and the pseudo-operations of spec/30_encoding.md rule R102, each an expansion
to operations of R92. -/

namespace Sys2Proof.Machine

/-- Run operations one after another, stopping where one is refused. -/
def runOps (ops : List Instr) (s : State) : Host.Outcome State Fault Refusal :=
  match ops with
  | [] => .next s
  | i :: rest =>
    match exec i s with
    | .next t => runOps rest t
    | .fault f => .fault f
    | .refused r => .refused r

/-- The EDGE operation of a kind (R92). -/
def edgeOp (k : EdgeKind) (now : Time) : Instr :=
  match k with
  | .falling => .edgeF now
  | .rising  => .edgeR now

/-- The other edge kind. -/
def otherKind (k : EdgeKind) : EdgeKind :=
  match k with
  | .falling => .rising
  | .rising  => .falling

/-- The edges at `t`, `t + d0`, `t + d0 + d1`, ..., kinds alternating from `k`. R102 gives plain sums and does not
say what an edge time of `2^64` or more is; the model takes every sum modulo `2^64`, as the wrapped clock of R122
would read (DESIGN CHOICE, log 19; unsafe for a burst whose times leave the 64 bits, safe otherwise). -/
def burstFrom (k : EdgeKind) (t : Time) (ds : List Duration) : List Instr :=
  match ds with
  | [] => [edgeOp k t]
  | d :: rest => edgeOp k t :: burstFrom (otherKind k) (t + d) rest

/-- `BURST @t0: ds` (R102): the first edge falls; edge times modulo `2^64` (DESIGN CHOICE, log 19). -/
def burst (t0 : Time) (ds : List Duration) : List Instr := burstFrom .falling t0 ds

/-- `BURSTR @t0: ds` (R102): the first edge rises; edge times modulo `2^64` (DESIGN CHOICE, log 19). -/
def burstR (t0 : Time) (ds : List Duration) : List Instr := burstFrom .rising t0 ds

/-- The durations `lo, h1` for a `1` and `lo, h0` for a `0`, then the final `lo` (R102). -/
def frameBits (lo h0 h1 : Duration) (bits : List Bool) : List Duration :=
  match bits with
  | [] => [lo]
  | b :: rest => lo :: (if b then h1 else h0) :: frameBits lo h0 h1 rest

/-- `FRAME @t0: (wl, wh) lo h0 h1 bits` (R102); edge times modulo `2^64` (DESIGN CHOICE, log 19). -/
def frame (t0 : Time) (wl wh lo h0 h1 : Duration) (bits : List Bool) : List Instr :=
  burst t0 (wl :: wh :: frameBits lo h0 h1 bits)

/-- `WAITQ` expands to no operation (R102); what it asserts is `QuietRun` of Safety.lean. -/
def waitq : List Instr := []

/-- DSTEP repeated while the decoder is busy, at most `fuel` times. -/
def dstepsWhileBusy (fuel : Nat) (s : State) : Host.Outcome State Fault Refusal :=
  match fuel with
  | 0 => .next s
  | fuel + 1 =>
    if s.busy then
      match exec .dstep s with
      | .next t => dstepsWhileBusy fuel t
      | .fault f => .fault f
      | .refused r => .refused r
    else .next s

/-- `DECODE` (R102): DSTART, then DSTEP while busy. R142 bounds the DSTEPs by `2 + floor(SNAP / 2)`. -/
def decodeCall (s : State) : Host.Outcome State Fault Refusal :=
  match exec .dstart s with
  | .next t => dstepsWhileBusy (2 + t.snap.toNat / 2) t
  | .fault f => .fault f
  | .refused r => .refused r

/-- Operations presented by their own agents, as a trace (R101). -/
def presentAll (ops : List Instr) : List Presented := ops.map presentOwn

end Sys2Proof.Machine
end

