-- ==== Sys2Proof/Safety.lean ====
section
/-! DEFINITION. What claims are stated in: the parts of the state an operation leaves alone, the invariant of
spec/10_state.md rule R40, and a decode window that no accepted EDGE falls into (spec/70_reset_and_hazards.md
R250). -/

namespace Sys2Proof.Machine

/-! ## Parts of the state -/

/-- EdgeCapture's registers, the BurstBuffer and `INIT` are the same (R20 (a), (b), R42). -/
structure SameCapture (s t : State) : Prop where
  lastEdge  : t.lastEdge = s.lastEdge
  seeded    : t.seeded = s.seeded
  smp       : t.smp = s.smp
  stepCount : t.stepCount = s.stepCount
  init      : t.init = s.init

/-- The ProtocolProfile is the same (R20 (c)). -/
structure SameProfile (s t : State) : Prop where
  profile : t.profile = s.profile
  ploaded : t.ploaded = s.ploaded

/-- The result registers and the two sequencing registers are the same. -/
structure SameResult (s t : State) : Prop where
  snap   : t.snap = s.snap
  cursor : t.cursor = s.cursor
  bits   : t.bits = s.bits
  error  : t.error = s.error
  code   : t.code = s.code

/-- The ProtocolDecoder's six registers are the same (R20 (d)). -/
structure SameDecoder (s t : State) : Prop where
  dstate : t.dstate = s.dstate
  result : SameResult s t

/-- The parameter and the presented operations are the same. -/
structure SameInput (s t : State) : Prop where
  capacity : t.capacity = s.capacity
  trace    : t.trace = s.trace

/-- The read data and the count of draws are the same. -/
structure SameOutput (s t : State) : Prop where
  readData : t.readData = s.readData
  draws    : t.draws = s.draws

/-- Entry `i` of the sample memory (R24). -/
def State.entry (s : State) (i : Nat) : Sample := SampleMem.read s.smp i

/-- The durations the decoder reads (R140): the pure function of R157 takes these. -/
def State.durations (s : State) (i : Nat) : Duration := (s.entry i).duration

/-! ## The invariant -/

/-- The part of R40 that every step keeps, with what it rests on. Clauses (iv) and (vi) hold until the decode ends; a
PLOAD after it may change `P.bitCount` and `P.wakeupStepCount` under a finished result, so here they are stated of a
busy decoder (log 14). `State.InvR40` has them as R40 does, finished results included. -/
structure State.Inv (s : State) : Prop where
  /-- The sample memory is canonical. -/
  memCanonical  : SampleMem.wf s.smp = true
  /-- No entry at or above `CAPACITY` exists (R60). -/
  memBelow      : SampleMem.below s.capacity.val s.smp = true
  /-- R40 (i), R26. -/
  countBounded  : s.init = true → s.stepCount.toNat ≤ s.capacity.val
  /-- R40 (vii): entries at or above `STEPCOUNT` are cleared. -/
  tailCleared   : s.init = true → ∀ i, s.stepCount.toNat ≤ i → s.entry i = Sample.cleared
  /-- A decode has been started only with a reset buffer and a profile (R141). -/
  ready         : s.dstate ≠ .idle → s.init = true ∧ s.ploaded = true
  /-- R40 (ii) and R37: `1 .. CAPACITY` after a DSTART. -/
  snapBounded   : s.dstate ≠ .idle → 1 ≤ s.snap.toNat ∧ s.snap.toNat ≤ s.capacity.val
  /-- R40 (ii): while busy. -/
  snapCommitted : s.busy = true → s.snap.toNat ≤ s.stepCount.toNat
  /-- R40 (iii). -/
  cursorBounded : s.dstate ≠ .idle → (s.busy = true ∨ s.taint = false) → s.cursor.toNat ≤ s.snap.toNat
  /-- R40 (iv). -/
  bitsBounded   : s.busy = true → s.bits.toNat ≤ s.profile.bitCount.toNat
  /-- R40 (v). -/
  codeBounded   : s.dstate ≠ .idle → (s.busy = true ∨ s.taint = false) → s.code.toNat < 2 ^ min s.bits.toNat 64
  /-- What DSTART leaves (R141), until the wake-up step. -/
  waking        : s.dstate = .awaitingWakeup →
    s.cursor = 0#32 ∧ s.bits = 0#32 ∧ s.error = false ∧ s.code = 0#64
  /-- R40 (vi). -/
  pairing       : s.dstate = .decodingBits →
    ∃ k, s.cursor.toNat = min s.profile.wakeupStepCount.toNat s.snap.toNat + 2 * k

/-- R40 as it stands: (i) to (vi) of every state after a DSTART with `TAINT = 0`, a terminal one included, and the
second half of (vii). Every operation keeps it but a PLOAD that changes `P.bitCount` or `P.wakeupStepCount` in a
terminal state, and the next DSTART restores it (log 14). The first half of (vii), that a committed sample does not
change, speaks of two states: Obligations.CommittedSamplesStayUntilBclr. -/
structure State.InvR40 (s : State) : Prop extends s.Inv where
  /-- R40 (iv). -/
  resultBits    : s.dstate ≠ .idle → s.taint = false → s.bits.toNat ≤ s.profile.bitCount.toNat
  /-- R40 (vi), "once the wake-up step is done". -/
  resultPairing : s.dstate = .decodingBits ∨ s.terminal = true → s.taint = false →
    ∃ k, s.cursor.toNat = min s.profile.wakeupStepCount.toNat s.snap.toNat + 2 * k

/-! ## A quiet decode window -/

/-- An operation that is not an accepted EDGE, not BCLR, not PLOAD and not DSTART: what R158 and `WAITQ` (R102)
allow in a decode window. -/
def quietOp (s : State) (i : Instr) : Bool :=
  match i with
  | .edgeF _ => !s.accepts
  | .edgeR _ => !s.accepts
  | .bclr    => false
  | .pload _ => false
  | .dstart  => false
  | .dstep   => true
  | .rdreg _ => true
  | .rdsmp _ => true

/-- `t` is reached from `s` by quiet operations only, `k` of them DSTEPs (R158, R250). -/
inductive QuietRun (s : State) : Nat → State → Prop where
  | refl : QuietRun s 0 s
  | op {k : Nat} {t u : State} {i : Instr} :
      QuietRun s k t → quietOp t i = true → exec i t = .next u → QuietRun s (if i = .dstep then k + 1 else k) u

/-! ## Reads -/

/-- RDREG `r` returns the number `n` and writes nothing else (R184, R99). -/
def State.returnsReg (s : State) (r : BitVec 4) (n : Nat) : Prop :=
  exec (.rdreg r) s = .next { s with readData := some (.reg (BitVec.ofNat 64 n)) }

end Sys2Proof.Machine
end

