-- ==== Sys2Proof/Certificates/Slice0/Obligations.lean ====
section
/-! DEFINITION. The statements for the provers. Each docstring names the rule of spec/ it formalises. -/

open Sys2Proof Sys2Proof.Machine

/-! ## Encoding -/

/-- R91, R92: no bit of an operation word is dropped. -/
def Obligations.DecodeOfEncodeIsTheOperation : Prop :=
  ∀ i : Instr, i.wellFormed = true → decode (encode i) = .ok i

/-- R91, R92: each word stands for one operation, and only the words of R92 stand for one. -/
def Obligations.EncodeOfDecodeIsTheWord : Prop :=
  ∀ (word : List Byte) (i : Instr), decode word = .ok i → encode i = word ∧ i.wellFormed = true

/-- R91: the total bits of every format and the bits of every field, in the word read as one number. -/
def Obligations.WordFieldsStandAtTheirBits : Prop :=
  (∀ now : Time,
    (encode (.edgeF now)).length * 8 = 72 ∧
    wordNumber (encode (.edgeF now)) % 2 ^ 8 = 0 ∧
    wordNumber (encode (.edgeF now)) % 2 = 0 ∧
    wordNumber (encode (.edgeF now)) / 2 ^ 8 = now.toNat) ∧
  (∀ now : Time,
    (encode (.edgeR now)).length * 8 = 72 ∧
    wordNumber (encode (.edgeR now)) % 2 ^ 8 = 1 ∧
    wordNumber (encode (.edgeR now)) % 2 = 1 ∧
    wordNumber (encode (.edgeR now)) / 2 ^ 8 = now.toNat) ∧
  ((encode .bclr).length * 8 = 8 ∧ wordNumber (encode .bclr) = 0x10) ∧
  ((encode .dstart).length * 8 = 8 ∧ wordNumber (encode .dstart) = 0x30) ∧
  ((encode .dstep).length * 8 = 8 ∧ wordNumber (encode .dstep) = 0x31) ∧
  (∀ p : Profile,
    (encode (.pload p)).length * 8 = 296 ∧
    wordNumber (encode (.pload p)) % 2 ^ 8 = 0x20 ∧
    wordNumber (encode (.pload p)) / 2 ^ 8 % 2 ^ 32 = p.bitCount.toNat ∧
    wordNumber (encode (.pload p)) / 2 ^ 40 % 2 ^ 32 = p.expectedStepCount.toNat ∧
    wordNumber (encode (.pload p)) / 2 ^ 72 % 2 ^ 32 = p.wakeupStepCount.toNat ∧
    wordNumber (encode (.pload p)) / 2 ^ 104 % 2 ^ 64 = p.zeroOneThreshold.toNat ∧
    wordNumber (encode (.pload p)) / 2 ^ 168 % 2 ^ 64 = p.noiseCeiling.toNat ∧
    wordNumber (encode (.pload p)) / 2 ^ 232 = p.separatorThreshold.toNat) ∧
  (∀ r : BitVec 4,
    (encode (.rdreg r)).length * 8 = 8 ∧
    wordNumber (encode (.rdreg r)) / 2 ^ 4 = 0x4 ∧
    wordNumber (encode (.rdreg r)) % 2 ^ 4 = r.toNat) ∧
  (∀ idx : Count,
    (encode (.rdsmp idx)).length * 8 = 40 ∧
    wordNumber (encode (.rdsmp idx)) % 2 ^ 8 = 0x50 ∧
    wordNumber (encode (.rdsmp idx)) / 2 ^ 8 = idx.toNat)

/-- R94: a reserved opcode byte is refused whatever stands above it, whoever presents it; RDREG 7, 14 and 15 too. -/
def Obligations.ReservedEncodingsAreRefused : Prop :=
  ∀ (s : State) (a : Agent) (op : Byte) (payload : List Byte) (rest : List Presented),
    s.trace = { agent := a, word := op :: payload } :: rest →
    ((0x02 ≤ op.toNat ∧ op.toNat ≤ 0x0F ∨ 0x11 ≤ op.toNat ∧ op.toNat ≤ 0x1F ∨
      0x21 ≤ op.toNat ∧ op.toNat ≤ 0x2F ∨ 0x32 ≤ op.toNat ∧ op.toNat ≤ 0x3F ∨ 0x51 ≤ op.toNat) →
      step s = .refused .reservedOpcode) ∧
    ((op = 0x47#8 ∨ op = 0x4E#8 ∨ op = 0x4F#8) → step s = .refused .reservedRegister)

/-- R90, R100: two operation words that begin with the same byte have the same length. -/
def Obligations.OpcodeByteFixesTheLength : Prop :=
  ∀ (op : Byte) (above above' : List Byte) (i i' : Instr),
    decode (op :: above) = .ok i → decode (op :: above') = .ok i' → above.length = above'.length

/-- 95_test_vectors.md V-X1, V-X2, V-X4, V-X5, V-X6, V-X8 to V-X12: words written out byte by byte, low byte first,
decode to what they stand for. -/
def Obligations.WrittenOutWordsDecode : Prop :=
  decode [0x00#8, 0x40#8, 0x42#8, 0x0F#8, 0x00#8, 0x00#8, 0x00#8, 0x00#8, 0x00#8] = .ok (.edgeF 1000000#64) ∧
  decode [0x01#8, 0xA2#8, 0x53#8, 0x0F#8, 0x00#8, 0x00#8, 0x00#8, 0x00#8, 0x00#8] = .ok (.edgeR 1004450#64) ∧
  decode [0x10#8] = .ok .bclr ∧
  decode [0x20#8, 0x04#8, 0x00#8, 0x00#8, 0x00#8, 0x0C#8, 0x00#8, 0x00#8, 0x00#8, 0x02#8, 0x00#8, 0x00#8, 0x00#8,
      0xE8#8, 0x03#8, 0x00#8, 0x00#8, 0x00#8, 0x00#8, 0x00#8, 0x00#8,
      0xC4#8, 0x09#8, 0x00#8, 0x00#8, 0x00#8, 0x00#8, 0x00#8, 0x00#8,
      0x10#8, 0x27#8, 0x00#8, 0x00#8, 0x00#8, 0x00#8, 0x00#8, 0x00#8] =
    .ok (.pload { bitCount := 4#32, expectedStepCount := 12#32, wakeupStepCount := 2#32,
                  zeroOneThreshold := 1000#64, noiseCeiling := 2500#64, separatorThreshold := 10000#64 }) ∧
  decode [0x30#8] = .ok .dstart ∧
  decode [0x31#8] = .ok .dstep ∧
  decode [0x44#8] = .ok (.rdreg 4#4) ∧
  decode [0x50#8, 0x03#8, 0x00#8, 0x00#8, 0x00#8] = .ok (.rdsmp 3#32)

/-! ## The step -/

/-- R70, R90, R101: where the next presented word decodes to an operation that its agent may issue, the step is that
operation, run on the state that waits for the words after it. -/
def Obligations.StepRunsThePresentedOperation : Prop :=
  ∀ (s : State) (a : Agent) (word : List Byte) (rest : List Presented) (i : Instr),
    s.trace = { agent := a, word := word } :: rest → decode word = .ok i → mayIssue a i = true →
    step s = exec i { s with trace := rest }

/-- R103 and U12 of spec/93_implementation_defined.md, in the model's reading (DEDUCED, log 5): R103 names who may issue
each operation and calls refused what crosses between the two contexts; that a word from another agent of the
cooperative context is refused too is the model's reading. EDGE from EdgeCapture only; DSTEP from the decoder only, while it is busy; BCLR, PLOAD and DSTART from the
capture owner only; RDREG and RDSMP from the capture owner or a collaborator. An EDGE from the cooperative context,
or anything else from the interrupt context, is refused; so is anything else R103 does not allow, and what it allows
is run. -/
def Obligations.OnlyTheNamedAgentMayIssue : Prop :=
  ∀ (s : State) (a : Agent) (i : Instr) (rest : List Presented),
    s.trace = { agent := a, word := encode i } :: rest → i.wellFormed = true →
    (¬ (contextOf a = .interrupt ↔ ∃ now, i = .edgeF now ∨ i = .edgeR now) → step s = .refused .wrongAgent) ∧
    (∀ now, i = .edgeF now ∨ i = .edgeR now →
      (a ≠ .edgeCapture → step s = .refused .wrongAgent) ∧
      (a = .edgeCapture → step s = exec i { s with trace := rest })) ∧
    (i = .dstep →
      (a ≠ .protocolDecoder → step s = .refused .wrongAgent) ∧
      (a = .protocolDecoder → s.busy = false → step s = .refused .decoderNotBusy) ∧
      (a = .protocolDecoder → s.busy = true → step s = exec i { s with trace := rest })) ∧
    (∀ p, i = .bclr ∨ i = .pload p ∨ i = .dstart →
      (a ≠ .captureOwner → step s = .refused .wrongAgent) ∧
      (a = .captureOwner → step s = exec i { s with trace := rest })) ∧
    (∀ r idx, i = .rdreg r ∨ i = .rdsmp idx →
      (a ≠ .captureOwner ∧ a ≠ .collaborator → step s = .refused .wrongAgent) ∧
      (a = .captureOwner ∨ a = .collaborator → step s = exec i { s with trace := rest }))

/-! ## EdgeCapture -/

/-- R121: the whole procedure `Edge(k, now)`, for both operations. EDGE always completes. Before the first BCLR it
may change only the four capture fields, which the spec leaves unspecified; on a full buffer it changes nothing; a
first edge seeds; any other appends one sample. -/
def Obligations.EdgeFollowsItsProcedure : Prop :=
  ∀ (s : State) (k : EdgeKind) (now : Time), SampleMem.wf s.smp = true →
    ∃ t, exec (edgeOp k now) s = .next t ∧
      SameProfile s t ∧ SameDecoder s t ∧ SameInput s t ∧ t.init = s.init ∧ t.readData = s.readData ∧
      (s.init = false → t.taint = s.taint) ∧
      (s.init = true → s.stepCount.toNat = s.capacity.val → t = s) ∧
      (s.init = true → s.stepCount.toNat < s.capacity.val →
        t.lastEdge = now ∧ t.seeded = true ∧ t.draws = s.draws ∧
        (t.taint = true ↔ s.taint = true ∨ s.dstate = .awaitingWakeup ∨ s.dstate = .decodingBits) ∧
        (s.seeded = false → t.smp = s.smp ∧ t.stepCount = s.stepCount) ∧
        (s.seeded = true →
          t.stepCount.toNat = s.stepCount.toNat + 1 ∧
          t.entry s.stepCount.toNat =
            { level := match k with | .falling => .high | .rising => .low, duration := now - s.lastEdge } ∧
          ∀ i, i ≠ s.stepCount.toNat → t.entry i = s.entry i))

/-- R122: the duration an accepted, seeded edge stores is the difference modulo `2^64`. -/
def Obligations.DurationIsTheTimeDifference : Prop :=
  ∀ (s : State) (k : EdgeKind) (now : Time), SampleMem.wf s.smp = true → s.init = true →
    s.stepCount.toNat < s.capacity.val → s.seeded = true →
    ∃ t, exec (edgeOp k now) s = .next t ∧
      (s.lastEdge.toNat ≤ now.toNat →
        (t.durations s.stepCount.toNat).toNat = now.toNat - s.lastEdge.toNat) ∧
      (now.toNat < s.lastEdge.toNat →
        (t.durations s.stepCount.toNat).toNat = now.toNat + 2 ^ 64 - s.lastEdge.toNat) ∧
      (now = s.lastEdge → t.durations s.stepCount.toNat = 0#64) ∧
      t.seeded = s.seeded ∧ t.error = s.error

/-- R125: the level recorded is the one that just ended, from the event's kind alone, and two edges of one kind give
two samples of one level. -/
def Obligations.LevelIsTheOneThatEnded : Prop :=
  ∀ (s : State) (now now' : Time), SampleMem.wf s.smp = true → s.init = true → s.seeded = true →
    s.stepCount.toNat + 1 < s.capacity.val →
    (∃ t, runOps [.edgeF now, .edgeF now'] s = .next t ∧
      (t.entry s.stepCount.toNat).level = .high ∧ (t.entry (s.stepCount.toNat + 1)).level = .high) ∧
    (∃ t, runOps [.edgeR now, .edgeR now'] s = .next t ∧
      (t.entry s.stepCount.toNat).level = .low ∧ (t.entry (s.stepCount.toNat + 1)).level = .low)

/-- R128: what `m >= 1` edges leave in a freshly reset buffer. -/
def Obligations.EdgesFillTheBuffer : Prop :=
  ∀ (s : State) (events : List (EdgeKind × Time)), SampleMem.wf s.smp = true → s.init = true →
    s.stepCount = 0#32 → s.seeded = false → events ≠ [] →
    ∃ t, runOps (events.map fun e => edgeOp e.1 e.2) s = .next t ∧
      t.stepCount.toNat = min (events.length - 1) s.capacity.val ∧
      (∀ (j : Nat) (e e' : EdgeKind × Time), events[j]? = some e → events[j + 1]? = some e' →
        j < t.stepCount.toNat →
        t.entry j = { level := match e'.1 with | .falling => .high | .rising => .low, duration := e'.2 - e.2 }) ∧
      ((∀ (j : Nat) (e : EdgeKind × Time), events[j]? = some e →
          e.1 = if j % 2 = 0 then .falling else .rising) →
        ∀ j, j < t.stepCount.toNat → (t.entry j).level = if j % 2 = 0 then .low else .high)

/-- R102: BURST commits its durations with levels 0, 1, 0, 1, ... and BURSTR with levels 1, 0, 1, 0, ..., as many as
the buffer holds. Where an edge time leaves its 64 bits this rests on the model's choice of log 19. -/
def Obligations.BurstCommitsItsDurations : Prop :=
  ∀ (s : State) (t0 : Time) (ds : List Duration), SampleMem.wf s.smp = true → s.init = true →
    s.stepCount = 0#32 → s.seeded = false →
    (∃ t, runOps (burst t0 ds) s = .next t ∧ t.stepCount.toNat = min ds.length s.capacity.val ∧
      ∀ (j : Nat) (d : Duration), ds[j]? = some d → j < s.capacity.val →
        t.entry j = { level := if j % 2 = 0 then .low else .high, duration := d }) ∧
    (∃ t, runOps (burstR t0 ds) s = .next t ∧ t.stepCount.toNat = min ds.length s.capacity.val ∧
      ∀ (j : Nat) (d : Duration), ds[j]? = some d → j < s.capacity.val →
        t.entry j = { level := if j % 2 = 0 then .high else .low, duration := d })

/-- R214: what an edge does to the capture state depends on nothing of the profile, of the decoder's results or of
the outputs, and what it does to `TAINT` depends on the decoder only through whether it is busy. -/
def Obligations.InterruptContextReadsCaptureOnly : Prop :=
  ∀ (s s' : State) (k : EdgeKind) (now : Time), SameCapture s s' → s'.capacity = s.capacity → s.init = true →
    ∃ t t', exec (edgeOp k now) s = .next t ∧ exec (edgeOp k now) s' = .next t' ∧ SameCapture t t' ∧
      (s'.busy = s.busy → s'.taint = s.taint → t'.taint = t.taint)

/-! ## ProtocolDecoder -/

/-- R141: the four refusals in the order of the pseudocode, and what an accepted DSTART writes. -/
def Obligations.DstartFollowsItsProcedure : Prop :=
  (opcodeOfByte 0x30#8 = some .dstart ∧ opcodeFormat .dstart = .N) ∧
  ∀ s : State,
    (s.init = false → exec .dstart s = .refused .bufferNeverReset) ∧
    (s.init = true → s.ploaded = false → exec .dstart s = .refused .noProfile) ∧
    (s.init = true → s.ploaded = true → s.dstate = .awaitingWakeup ∨ s.dstate = .decodingBits →
      exec .dstart s = .refused .decoderBusy) ∧
    (s.init = true → s.ploaded = true → s.dstate ≠ .awaitingWakeup → s.dstate ≠ .decodingBits →
      s.stepCount = 0#32 → exec .dstart s = .refused .emptyBuffer) ∧
    (s.init = true → s.ploaded = true → s.dstate ≠ .awaitingWakeup → s.dstate ≠ .decodingBits →
      s.stepCount ≠ 0#32 →
      ∃ t, exec .dstart s = .next t ∧ t.snap = s.stepCount ∧ t.cursor = 0#32 ∧ t.code = 0#64 ∧ t.bits = 0#32 ∧
        t.error = false ∧ t.taint = false ∧ t.dstate = .awaitingWakeup ∧
        SameCapture s t ∧ SameProfile s t ∧ SameInput s t ∧ SameOutput s t)

/-- R143: the wake-up step passes `min(P.wakeupStepCount, SNAP)` samples unread. With too few samples the decode then
ends with no bit: in every state that meets the invariant `BITS`, `CODE` and `ERROR` are 0. -/
def Obligations.WakeStepPassesTheMarker : Prop :=
  ∀ s : State, s.dstate = .awaitingWakeup →
    ∃ t, exec .dstep s = .next t ∧
      t.cursor.toNat = min s.profile.wakeupStepCount.toNat s.snap.toNat ∧ t.dstate = .decodingBits ∧
      t.snap = s.snap ∧ t.code = s.code ∧ t.bits = s.bits ∧ t.error = s.error ∧ t.taint = s.taint ∧
      SameCapture s t ∧ SameProfile s t ∧ SameInput s t ∧ SameOutput s t ∧
      (s.snap.toNat ≤ s.profile.wakeupStepCount.toNat → s.taint = false →
        ∃ u, exec .dstep t = .next u ∧ u.terminal = true ∧ SameResult t u ∧
          (s.Inv → u.bits = 0#32 ∧ u.code = 0#64 ∧ u.error = false))

/-- R144, R163: with bits wanted and no full pair left the step only finishes; a lone sample is not read. -/
def Obligations.BitStepWithoutAPairFinishes : Prop :=
  ∀ s : State, s.dstate = .decodingBits → s.bits.toNat < s.profile.bitCount.toNat →
    s.snap.toNat < s.cursor.toNat + 2 → s.taint = false →
    exec .dstep s = .next { s with dstate := if s.error then .error else .truncated }

/-- R150: the end-of-stream check is strict, comes first, and uses nothing of the pair. -/
def Obligations.SeparatorStopsTheBitPhase : Prop :=
  ∀ s : State, s.init = true → s.snap.toNat ≤ s.capacity.val → s.dstate = .decodingBits →
    s.bits.toNat < s.profile.bitCount.toNat → s.cursor.toNat + 2 ≤ s.snap.toNat → s.taint = false →
    (s.profile.separatorThreshold < s.durations s.cursor.toNat ∨
      s.profile.separatorThreshold < s.durations (s.cursor.toNat + 1) →
      exec .dstep s = .next { s with dstate := if s.error then .error else .truncated }) ∧
    (s.durations s.cursor.toNat ≤ s.profile.separatorThreshold →
      s.durations (s.cursor.toNat + 1) ≤ s.profile.separatorThreshold →
      ∃ t, exec .dstep s = .next t ∧ t.dstate = .decodingBits ∧ t.bits.toNat = s.bits.toNat + 1)

/-- R151, R154: a pair that is no separator shifts one bit into `CODE`, decided by the high half alone, and is
counted; bit 63 is still zero when the shift drops it, if `P.bitCount <= 64`; everything but `CODE`, `BITS`, `CURSOR`
and `ERROR` stays. -/
def Obligations.HighHalfGivesTheBit : Prop :=
  ∀ s : State, s.init = true → s.snap.toNat ≤ s.capacity.val → s.dstate = .decodingBits →
    s.bits.toNat < s.profile.bitCount.toNat → s.cursor.toNat + 2 ≤ s.snap.toNat →
    s.durations s.cursor.toNat ≤ s.profile.separatorThreshold →
    s.durations (s.cursor.toNat + 1) ≤ s.profile.separatorThreshold →
    ∃ t, exec .dstep s = .next t ∧
      t.code.toNat = (2 * s.code.toNat +
        (if s.profile.zeroOneThreshold < s.durations (s.cursor.toNat + 1) ∧
            s.durations (s.cursor.toNat + 1) < s.profile.noiseCeiling then 1 else 0)) % 2 ^ 64 ∧
      (s.Inv → s.profile.bitCount.toNat ≤ 64 → s.code.toNat < 2 ^ 63) ∧
      t.bits.toNat = s.bits.toNat + 1 ∧ t.cursor.toNat = s.cursor.toNat + 2 ∧ t.dstate = .decodingBits ∧
      t.snap = s.snap ∧ t.taint = s.taint ∧
      SameCapture s t ∧ SameProfile s t ∧ SameInput s t ∧ SameOutput s t

/-- R152, R153: a bit step sets `ERROR` on a low half strictly above the threshold and on a `1` at or above the noise
ceiling, and on nothing else; the pair is counted, a noisy bit is 0, and a long low half does not touch the bit. -/
def Obligations.SoftAnomaliesSetErrorOnly : Prop :=
  ∀ s : State, s.init = true → s.snap.toNat ≤ s.capacity.val → s.dstate = .decodingBits →
    s.bits.toNat < s.profile.bitCount.toNat → s.cursor.toNat + 2 ≤ s.snap.toNat →
    s.durations s.cursor.toNat ≤ s.profile.separatorThreshold →
    s.durations (s.cursor.toNat + 1) ≤ s.profile.separatorThreshold →
    ∃ t, exec .dstep s = .next t ∧ t.bits.toNat = s.bits.toNat + 1 ∧ t.dstate = .decodingBits ∧
      (t.error = true ↔ s.error = true ∨ s.profile.zeroOneThreshold < s.durations s.cursor.toNat ∨
        s.profile.zeroOneThreshold < s.durations (s.cursor.toNat + 1) ∧
          s.profile.noiseCeiling ≤ s.durations (s.cursor.toNat + 1)) ∧
      (s.profile.zeroOneThreshold < s.durations (s.cursor.toNat + 1) →
        s.profile.noiseCeiling ≤ s.durations (s.cursor.toNat + 1) → t.code = s.code <<< 1) ∧
      (s.profile.zeroOneThreshold < s.durations (s.cursor.toNat + 1) →
        s.durations (s.cursor.toNat + 1) < s.profile.noiseCeiling → t.code = (s.code <<< 1) ||| 1#64) ∧
      (s.durations (s.cursor.toNat + 1) ≤ s.profile.zeroOneThreshold → t.code = s.code <<< 1)

/-- R155: once the bits are read, pairs up to `min(SNAP, P.expectedStepCount)` are passed unread, then the decode
finishes; only `CURSOR` moves, and what the samples hold does not matter. -/
def Obligations.ExtraPairsArePassedUnread : Prop :=
  ∀ s : State, s.dstate = .decodingBits → s.profile.bitCount.toNat ≤ s.bits.toNat →
    (s.cursor.toNat + 2 ≤ min s.snap.toNat s.profile.expectedStepCount.toNat →
      exec .dstep s = .next { s with cursor := s.cursor + 2#32 } ∧
      (s.cursor + 2#32).toNat = s.cursor.toNat + 2) ∧
    (min s.snap.toNat s.profile.expectedStepCount.toNat < s.cursor.toNat + 2 → s.taint = false →
      exec .dstep s = .next { s with dstate := if s.error then .error else .complete })

/-- R156: `Finish()`, at each of the places that call it. A clean finish writes `DSTATE` only: `ERROR` if the flag is
1, else `TRUNCATED` if bits are missing, else `COMPLETE`. A tainted finish reaches some terminal state; of `CODE`,
`BITS`, `ERROR` and `CURSOR` nothing is said, and nothing else changes. -/
def Obligations.FinishChoosesTheTerminalState : Prop :=
  ∀ s : State, s.init = true → s.snap.toNat ≤ s.capacity.val → s.dstate = .decodingBits →
    (s.bits.toNat < s.profile.bitCount.toNat ∧ s.snap.toNat < s.cursor.toNat + 2 ∨
     s.bits.toNat < s.profile.bitCount.toNat ∧ s.cursor.toNat + 2 ≤ s.snap.toNat ∧
      (s.profile.separatorThreshold < s.durations s.cursor.toNat ∨
        s.profile.separatorThreshold < s.durations (s.cursor.toNat + 1)) ∨
     s.profile.bitCount.toNat ≤ s.bits.toNat ∧
      min s.snap.toNat s.profile.expectedStepCount.toNat < s.cursor.toNat + 2) →
    ∃ t, exec .dstep s = .next t ∧ t.snap = s.snap ∧ t.taint = s.taint ∧
      SameCapture s t ∧ SameProfile s t ∧ SameInput s t ∧ t.readData = s.readData ∧
      (t.dstate = .complete ∨ t.dstate = .truncated ∨ t.dstate = .error) ∧
      (s.taint = false → SameResult s t ∧ t.draws = s.draws ∧
        (s.error = true → t.dstate = .error) ∧
        (s.error = false → s.bits.toNat < s.profile.bitCount.toNat → t.dstate = .truncated) ∧
        (s.error = false → s.profile.bitCount.toNat ≤ s.bits.toNat → t.dstate = .complete))

/-- R142: DSTEP is refused when the decoder is not busy; otherwise it leaves `AWAITING_WAKEUP`, adds 2 to `CURSOR`
within `SNAP`, or finishes. -/
def Obligations.DstepAdvancesOrFinishes : Prop :=
  (∀ s : State, s.dstate = .idle ∨ s.dstate = .complete ∨ s.dstate = .truncated ∨ s.dstate = .error →
    exec .dstep s = .refused .decoderNotBusy) ∧
  (∀ s t : State, exec .dstep s = .next t →
    s.dstate = .awaitingWakeup ∧ t.dstate = .decodingBits ∨
    s.dstate = .decodingBits ∧ t.dstate = .decodingBits ∧ t.cursor.toNat = s.cursor.toNat + 2 ∧
      t.cursor.toNat ≤ s.snap.toNat ∨
    s.dstate = .decodingBits ∧ (t.dstate = .complete ∨ t.dstate = .truncated ∨ t.dstate = .error))

/-- R160: no DSTEP is refused while the decoder is busy (in every state that meets the invariant, tainted or not). -/
def Obligations.NoDstepIsRefusedWhileBusy : Prop :=
  ∀ s : State, s.Inv → s.busy = true → ∃ t, exec .dstep s = .next t

/-- R142, R160: an accepted DSTART reaches a terminal state within `2 + floor(SNAP / 2)` DSTEPs. -/
def Obligations.DecodeEndsWithinItsBound : Prop :=
  ∀ s s1 : State, s.Inv → exec .dstart s = .next s1 →
    ∃ k t, k ≤ 2 + s1.snap.toNat / 2 ∧ runOps (List.replicate k .dstep) s1 = .next t ∧ t.terminal = true

/-- R158: an accepted DSTART followed by quiet operations up to a terminal state gives the pure function of R157 of
the buffer as it stood, the terminal state of R157, the buffer, count and profile unchanged, and takes
`2 +` (pairs consumed in the bit phase, one a bit) `+` (pairs consumed in the extra-steps phase) DSTEPs. -/
def Obligations.DecodeComputesThePureFunction : Prop :=
  ∀ (s s1 t : State) (k : Nat), s.Inv → exec .dstart s = .next s1 → QuietRun s1 k t → t.terminal = true →
    t.command = pureDecode s.durations s.stepCount.toNat s.profile ∧
    t.dstate = pureTerminal t.command s.profile ∧
    t.smp = s.smp ∧ t.stepCount = s.stepCount ∧ t.profile = s.profile ∧
    (let start := min s.profile.wakeupStepCount.toNat s.stepCount.toNat
     let extra := if t.bits = s.profile.bitCount then
       (min s.stepCount.toNat s.profile.expectedStepCount.toNat - (start + 2 * t.bits.toNat)) / 2 else 0
     k = 2 + t.bits.toNat + extra ∧ t.cursor.toNat = start + 2 * (t.bits.toNat + extra))

/-- R165: decoding the same buffer twice with the same profile gives the same result and terminal state. -/
def Obligations.DecodingTwiceGivesTheSameResult : Prop :=
  ∀ (s s1 t t1 u : State) (k k' : Nat), s.Inv →
    exec .dstart s = .next s1 → QuietRun s1 k t → t.terminal = true →
    exec .dstart t = .next t1 → QuietRun t1 k' u → u.terminal = true →
    u.code = t.code ∧ u.bits = t.bits ∧ u.error = t.error ∧ u.dstate = t.dstate

/-- R161: at any point of a quiet decode, after `k` bit steps the bits extracted so far stand in `CODE`
most-significant first, in bits `k - 1` to 0; only the last 64 remain. -/
def Obligations.CodeIsMostSignificantBitFirst : Prop :=
  ∀ (s s1 t : State) (n : Nat), s.Inv → exec .dstart s = .next s1 → QuietRun s1 n t →
    let bit := fun j : Nat =>
      let hi := s.durations (min s.profile.wakeupStepCount.toNat s.stepCount.toNat + 2 * j + 1)
      if s.profile.zeroOneThreshold < hi ∧ hi < s.profile.noiseCeiling then 1 else 0
    t.code.toNat = (List.range t.bits.toNat).foldl (fun acc j => 2 * acc + bit j) 0 % 2 ^ 64 ∧
    (t.bits.toNat ≤ 64 →
      t.code.toNat = ((List.range t.bits.toNat).map fun j => bit j * 2 ^ (t.bits.toNat - 1 - j)).sum)

/-- R166: (a) low and high halves all at or below the threshold, none a separator, decode to 0 without `ERROR`; (b)
all bits present, at most 64, with every high half strictly between threshold and ceiling, decode to all ones. -/
def Obligations.UniformBurstsDecodeAsStated : Prop :=
  ∀ s t : State, s.Inv → decodeCall s = .next t →
    let start := min s.profile.wakeupStepCount.toNat s.stepCount.toNat
    let wanted := fun j : Nat => j < s.profile.bitCount.toNat ∧ start + 2 * j + 2 ≤ s.stepCount.toNat
    let clean := fun j : Nat =>
      s.durations (start + 2 * j) ≤ s.profile.zeroOneThreshold ∧
      s.durations (start + 2 * j) ≤ s.profile.separatorThreshold ∧
      s.durations (start + 2 * j + 1) ≤ s.profile.separatorThreshold
    ((∀ j, wanted j → clean j ∧ s.durations (start + 2 * j + 1) ≤ s.profile.zeroOneThreshold) →
      t.code = 0#64 ∧ t.error = false) ∧
    ((∀ j, wanted j → clean j ∧ s.profile.zeroOneThreshold < s.durations (start + 2 * j + 1) ∧
        s.durations (start + 2 * j + 1) < s.profile.noiseCeiling) →
      start + 2 * s.profile.bitCount.toNat ≤ s.stepCount.toNat → s.profile.bitCount.toNat ≤ 64 →
      t.code.toNat = 2 ^ s.profile.bitCount.toNat - 1 ∧ t.error = false)

/-- R140: the decoder reads durations only; samples of other levels and the same durations change no DSTEP. -/
def Obligations.DecoderNeverReadsLevels : Prop :=
  ∀ (s : State) (m : SampleMem), s.init = true →
    (∀ i, (SampleMem.read m i).duration = (SampleMem.read s.smp i).duration) →
    (∀ t, exec .dstep s = .next t → exec .dstep { s with smp := m } = .next { t with smp := m }) ∧
    (∀ r, exec .dstep s = .refused r → exec .dstep { s with smp := m } = .refused r)

/-- R162: DSTART and DSTEP write only `DSTATE`, `SNAP`, `CURSOR`, `BITS`, `ERROR`, `CODE` and `TAINT`. -/
def Obligations.DecoderWritesOnlyItsRegisters : Prop :=
  ∀ (s t : State) (i : Instr), i = .dstart ∨ i = .dstep → exec i s = .next t →
    SameCapture s t ∧ SameProfile s t ∧ SameInput s t ∧ t.readData = s.readData

/-- R29: with at most 64 bits wanted, no bit step shifts a 1 out of `CODE`; with 32, bits 63 to 32 stay zero. -/
def Obligations.CodeLosesNoBit : Prop :=
  ∀ s : State, s.Inv → s.busy = true →
    (s.bits.toNat < s.profile.bitCount.toNat → s.profile.bitCount.toNat ≤ 64 → s.code.toNat < 2 ^ 63) ∧
    (s.profile.bitCount.toNat = 32 → ∀ t, exec .dstep s = .next t → s.taint = false → t.code.toNat < 2 ^ 32)

/-! ## The capture owner -/

/-- R181: BCLR. -/
def Obligations.BclrResetsTheBuffer : Prop :=
  (opcodeOfByte 0x10#8 = some .bclr ∧ opcodeFormat .bclr = .N) ∧
  ∀ s : State,
    (s.dstate = .awaitingWakeup ∨ s.dstate = .decodingBits → exec .bclr s = .refused .decoderBusy) ∧
    (s.dstate ≠ .awaitingWakeup → s.dstate ≠ .decodingBits →
      ∃ t, exec .bclr s = .next t ∧ (∀ i, t.entry i = { level := .low, duration := 0#64 }) ∧
        t.stepCount = 0#32 ∧ t.seeded = false ∧ t.init = true ∧ t.lastEdge = s.lastEdge ∧ t.taint = s.taint ∧
        SameDecoder s t ∧ SameProfile s t ∧ SameInput s t ∧ SameOutput s t)

/-- R182: PLOAD. -/
def Obligations.PloadSwapsTheProfileAsAUnit : Prop :=
  (opcodeOfByte 0x20#8 = some .pload ∧ opcodeFormat .pload = .P) ∧
  ∀ (s : State) (bc ex wk : Count) (z1 nc sp : Duration),
    let p : Profile := { bitCount := bc, expectedStepCount := ex, wakeupStepCount := wk, zeroOneThreshold := z1,
                         noiseCeiling := nc, separatorThreshold := sp }
    (s.dstate = .awaitingWakeup ∨ s.dstate = .decodingBits → exec (.pload p) s = .refused .decoderBusy) ∧
    (s.dstate ≠ .awaitingWakeup → s.dstate ≠ .decodingBits →
      ∃ t, exec (.pload p) s = .next t ∧ t.profile.bitCount = bc ∧ t.profile.expectedStepCount = ex ∧
        t.profile.wakeupStepCount = wk ∧ t.profile.zeroOneThreshold = z1 ∧ t.profile.noiseCeiling = nc ∧
        t.profile.separatorThreshold = sp ∧ t.ploaded = true ∧ t.taint = s.taint ∧
        SameCapture s t ∧ SameDecoder s t ∧ SameInput s t ∧ SameOutput s t)

/-- R252: inside a decode window BCLR, PLOAD and DSTART are refused. -/
def Obligations.BufferAndProfileAreLockedWhileBusy : Prop :=
  ∀ s : State, s.busy = true →
    exec .bclr s = .refused .decoderBusy ∧ (∀ p, exec (.pload p) s = .refused .decoderBusy) ∧
    ∃ r, exec .dstart s = .refused r

/-- R184 with the table of R37 and R95: reserved numbers are refused; a register that is unspecified reads as some
value and nothing but the read data (and the count of draws) changes; every other one reads as its own value,
zero-extended, and nothing but the read data changes. -/
def Obligations.RdregReturnsTheRegister : Prop :=
  (∀ r : BitVec 4, opcodeOfByte (0x40#8 + r.setWidth 8) = some (.rdreg r) ∧ opcodeFormat (.rdreg r) = .R) ∧
  ∀ s : State,
    (∀ r, r = 7#4 ∨ r = 14#4 ∨ r = 15#4 → exec (.rdreg r) s = .refused .reservedRegister) ∧
    (∀ r : BitVec 4, (r = 0#4 ∧ s.init = false ∨
        (r = 2#4 ∨ r = 3#4 ∨ r = 4#4 ∨ r = 5#4 ∨ r = 6#4) ∧ s.dstate = .idle ∨
        (8 ≤ r.toNat ∧ r.toNat ≤ 13) ∧ s.ploaded = false) →
      ∃ v n, exec (.rdreg r) s = .next { s with readData := some (.reg v), draws := n }) ∧
    (s.init = true → s.returnsReg 0#4 s.stepCount.toNat) ∧
    s.returnsReg 1#4 (match s.dstate with
      | .idle => 0 | .awaitingWakeup => 1 | .decodingBits => 2 | .complete => 3 | .truncated => 4 | .error => 5) ∧
    (s.dstate ≠ .idle →
      s.returnsReg 2#4 s.bits.toNat ∧ s.returnsReg 3#4 (if s.error then 1 else 0) ∧
      s.returnsReg 4#4 s.code.toNat ∧ s.returnsReg 5#4 s.cursor.toNat ∧ s.returnsReg 6#4 s.snap.toNat) ∧
    (s.ploaded = true →
      s.returnsReg 8#4 s.profile.bitCount.toNat ∧ s.returnsReg 9#4 s.profile.expectedStepCount.toNat ∧
      s.returnsReg 10#4 s.profile.wakeupStepCount.toNat ∧ s.returnsReg 11#4 s.profile.zeroOneThreshold.toNat ∧
      s.returnsReg 12#4 s.profile.noiseCeiling.toNat ∧ s.returnsReg 13#4 s.profile.separatorThreshold.toNat)

/-- R185 with R96: RDSMP. An index at or above `STEPCOUNT` and below `CAPACITY` reads `(0, 0)` in every state that
meets the invariant of R40. -/
def Obligations.RdsmpReturnsTheSampleWord : Prop :=
  (opcodeOfByte 0x50#8 = some .rdsmp ∧ opcodeFormat .rdsmp = .S) ∧
  ∀ (s : State) (idx : Count),
    (s.capacity.val ≤ idx.toNat → exec (.rdsmp idx) s = .refused .indexOutOfRange) ∧
    (idx.toNat < s.capacity.val → s.init = false →
      ∃ w n, exec (.rdsmp idx) s = .next { s with readData := some (.sample w), draws := n }) ∧
    (idx.toNat < s.capacity.val → s.init = true →
      ∃ w : BitVec 65, exec (.rdsmp idx) s = .next { s with readData := some (.sample w) } ∧
        w.toNat = (match (s.entry idx.toNat).level with | .low => 0 | .high => 2 ^ 64) +
          (s.entry idx.toNat).duration.toNat ∧
        (s.Inv → s.stepCount.toNat ≤ idx.toNat → w = 0#65))

/-! ## The sample memory -/

/-- R62, R63, R70: after an accepted, seeded EDGE an RDSMP of entry `STEPCOUNT` returns the pair just written, level
and duration together, an RDSMP of any other entry what it returned before, and a second RDSMP the same again. -/
def Obligations.AReadReturnsTheLatestWrite : Prop :=
  ∀ (s : State) (k : EdgeKind) (now : Time) (idx : Count), SampleMem.wf s.smp = true → s.init = true →
    s.seeded = true → s.stepCount.toNat < s.capacity.val → idx.toNat < s.capacity.val →
    ∃ (t u : State) (w v : BitVec 65), runOps [edgeOp k now, .rdsmp idx] s = .next t ∧
      t.readData = some (.sample w) ∧ exec (.rdsmp idx) t = .next t ∧
      exec (.rdsmp idx) s = .next u ∧ u.readData = some (.sample v) ∧
      (idx = s.stepCount →
        w.toNat = (match k with | .falling => 2 ^ 64 | .rising => 0) + (now - s.lastEdge).toNat) ∧
      (idx ≠ s.stepCount → w = v)

/-! ## The whole machine -/

/-- R40: power-on meets the invariant, finished results included, whatever the capacity. -/
def Obligations.PowerOnMeetsTheInvariant : Prop :=
  ∀ c : Capacity, (State.powerOn c).Inv ∧ (State.powerOn c).InvR40

/-- R240, R41: the values power-on gives. The values of the other registers are the model's choice (log 2) and are
not stated. -/
def Obligations.PowerOnGivesTheResetValues : Prop :=
  ∀ c : Capacity, (State.powerOn c).dstate = .idle ∧ (State.powerOn c).ploaded = false ∧
    (State.powerOn c).init = false ∧ (State.powerOn c).taint = false ∧ (State.powerOn c).capacity = c

/-- R40: every step keeps the invariant. -/
def Obligations.StepKeepsTheInvariant : Prop :=
  ∀ s t : State, s.Inv → step s = .next t → t.Inv

/-- R36, column "written by": each piece of state is changed by the operations listed for it and by no other. -/
def Obligations.OnlyTheListedOperationsWrite : Prop :=
  ∀ (s t : State) (i : Instr), exec i s = .next t →
    (t.lastEdge ≠ s.lastEdge → ∃ now, i = .edgeF now ∨ i = .edgeR now) ∧
    (t.seeded ≠ s.seeded → i = .bclr ∨ ∃ now, i = .edgeF now ∨ i = .edgeR now) ∧
    (t.smp ≠ s.smp → i = .bclr ∨ ∃ now, i = .edgeF now ∨ i = .edgeR now) ∧
    (t.stepCount ≠ s.stepCount → i = .bclr ∨ ∃ now, i = .edgeF now ∨ i = .edgeR now) ∧
    (t.profile ≠ s.profile ∨ t.ploaded ≠ s.ploaded → ∃ p, i = .pload p) ∧
    (t.dstate ≠ s.dstate ∨ t.snap ≠ s.snap ∨ t.cursor ≠ s.cursor ∨ t.bits ≠ s.bits ∨ t.error ≠ s.error ∨
      t.code ≠ s.code → i = .dstart ∨ i = .dstep) ∧
    (t.init ≠ s.init → i = .bclr) ∧
    (t.taint ≠ s.taint → i = .dstart ∨ ∃ now, i = .edgeF now ∨ i = .edgeR now) ∧
    t.capacity = s.capacity ∧ t.trace = s.trace

/-- R43, R251: `TAINT` is set by an accepted EDGE while the decoder is busy, cleared by DSTART, and changed by
nothing else; an EDGE that is ignored because the buffer is full does not taint. -/
def Obligations.TaintRecordsAnEdgeInTheWindow : Prop :=
  ∀ (s t : State) (i : Instr), exec i s = .next t →
    (s.taint = false → t.taint = true →
      (∃ now, i = .edgeF now ∨ i = .edgeR now) ∧ s.busy = true ∧ s.init = true ∧
        s.stepCount.toNat < s.capacity.val) ∧
    (s.taint = true → t.taint = false → i = .dstart) ∧
    (i = .dstart → t.taint = false) ∧
    ((∃ now, i = .edgeF now ∨ i = .edgeR now) → s.busy = true → s.init = true →
      s.stepCount.toNat < s.capacity.val → t.taint = true)

/-- R72 (a), (b), with R24 and R25: over any operations without a BCLR, the committed samples stay and `STEPCOUNT`
does not decrease. -/
def Obligations.CommittedSamplesStayUntilBclr : Prop :=
  ∀ (ops : List Instr) (s t : State), s.Inv → s.init = true → .bclr ∉ ops → runOps ops s = .next t →
    s.stepCount.toNat ≤ t.stepCount.toNat ∧ ∀ i, i < s.stepCount.toNat → t.entry i = s.entry i

/-- R72 (c), R75: while the decoder is busy no operation changes the profile, `SNAP`, or an entry the decoder can
still read. -/
def Obligations.ADecodeSeesOneProfileAndOneBuffer : Prop :=
  ∀ (s t : State) (i : Instr), s.Inv → s.busy = true → exec i s = .next t →
    t.profile = s.profile ∧ t.snap = s.snap ∧ ∀ j, j < s.snap.toNat → t.entry j = s.entry j

/-- R102, R161, R7: a frame sent to a freshly reset buffer that has room for it, under a profile whose thresholds
tell its halves apart, decodes to its own bits, most significant first, without `ERROR`. Where an edge time leaves its 64 bits this rests on
the model's choice of log 19. -/
def Obligations.AFrameDecodesToItsBits : Prop :=
  ∀ (s : State) (t0 : Time) (wl wh lo h0 h1 : Duration) (frameData : List Bool), s.Inv → s.init = true →
    s.ploaded = true → s.busy = false → s.stepCount = 0#32 → s.seeded = false →
    s.profile.wakeupStepCount = 2#32 → s.profile.bitCount.toNat = frameData.length → frameData.length ≤ 64 →
    2 * frameData.length + 3 ≤ s.capacity.val →
    lo ≤ s.profile.zeroOneThreshold → h0 ≤ s.profile.zeroOneThreshold → s.profile.zeroOneThreshold < h1 →
    h1 < s.profile.noiseCeiling → lo ≤ s.profile.separatorThreshold → h0 ≤ s.profile.separatorThreshold →
    h1 ≤ s.profile.separatorThreshold →
    ∃ t u, runOps (frame t0 wl wh lo h0 h1 frameData) s = .next t ∧
      t.stepCount.toNat = 2 + 2 * frameData.length + 1 ∧
      decodeCall t = .next u ∧ u.dstate = .complete ∧ u.error = false ∧ u.bits.toNat = frameData.length ∧
      u.code.toNat = frameData.foldl (fun acc b => 2 * acc + (if b then 1 else 0)) 0

/-- R70, R101: a trace of operations, each presented by its own agent, runs step by step as the operations one after
another, down to the operation that is refused. -/
def Obligations.ATraceRunsItsOperationsInOrder : Prop :=
  ∀ (ops : List Instr) (s : State), (∀ i ∈ ops, i.wellFormed = true) → s.trace = [] →
    Host.Core.run Sys2Proof.core ops.length ({ s with trace := presentAll ops } : State) = runOps ops s

/-- R40 with R182 (log 14): the whole of R40, finished results included, is kept by every step but a PLOAD that changes
`P.bitCount` or `P.wakeupStepCount` after a decode, and an accepted DSTART restores it. -/
def Obligations.R40HoldsUntilAPloadAfterTheDecode : Prop :=
  (∀ s t : State, s.InvR40 → step s = .next t →
    (∀ (first : Presented) (rest : List Presented) (p : Profile),
      s.trace = first :: rest → decode first.word = .ok (.pload p) →
      s.dstate = .idle ∨
        p.bitCount = s.profile.bitCount ∧ p.wakeupStepCount = s.profile.wakeupStepCount) →
    t.InvR40) ∧
  (∀ s t : State, s.Inv → exec .dstart s = .next t → t.InvR40)
end

