-- ==== Sys2Proof/Laws/Encoding.lean ====
section
/-! SUPPORT. Fields of operation words. -/

namespace Sys2Proof

theorem leBytes_length (n v : Nat) : (leBytes n v).length = n := by
  induction n generalizing v with
  | zero => rfl
  | succ n ih => simp [leBytes, ih]

theorem wordNumber_leBytes (n v : Nat) : wordNumber (leBytes n v) = v % 256 ^ n := by
  induction n generalizing v with
  | zero => simp [leBytes, wordNumber, Nat.mod_one]
  | succ n ih =>
    rw [leBytes, wordNumber, ih, Nat.pow_succ', Nat.mod_mul]
    simp

theorem wordNumber_append (a b : List Byte) : wordNumber (a ++ b) = wordNumber a + 256 ^ a.length * wordNumber b := by
  induction a with
  | nil => simp [wordNumber]
  | cons x a ih =>
    simp only [List.cons_append, wordNumber, ih, List.length_cons, Nat.pow_succ']
    ring

theorem takeField_leBytes (n v : Nat) (rest : List Byte) :
    takeField n (leBytes n v ++ rest) = some (v % 256 ^ n, rest) := by
  induction n generalizing v with
  | zero => simp [leBytes, takeField, Nat.mod_one]
  | succ n ih =>
    simp only [leBytes, List.cons_append, takeField, ih, Nat.pow_succ', Nat.mod_mul]
    simp

/-- What `takeField` takes is what `leBytes` gives back. -/
theorem takeField_eq_some {n v : Nat} {bytes rest : List Byte} (h : takeField n bytes = some (v, rest)) :
    bytes = leBytes n v ++ rest ∧ v < 256 ^ n := by
  induction n generalizing v bytes rest with
  | zero => simp [takeField] at h; simp [leBytes, h.1.symm, h.2]
  | succ n ih =>
    cases bytes with
    | nil => simp [takeField] at h
    | cons b bs =>
      rw [takeField] at h
      split at h
      · cases h
      · rename_i w rest' hw
        cases h
        obtain ⟨rfl, hlt⟩ := ih hw
        have hb := b.isLt
        refine ⟨?_, by rw [Nat.pow_succ']; omega⟩
        have h1 : (b.toNat + 256 * w) / 256 = w := by omega
        have h2 : BitVec.ofNat 8 (b.toNat + 256 * w) = b := by
          apply BitVec.eq_of_toNat_eq
          simp only [BitVec.toNat_ofNat]
          omega
        simp [leBytes, h1, h2]

theorem takeCount_leBytes (c : Count) (rest : List Byte) :
    takeCount (leBytes 4 c.toNat ++ rest) = some (c, rest) := by
  rw [takeCount, takeField_leBytes, Nat.mod_eq_of_lt (show c.toNat < 256 ^ 4 from c.isLt)]
  simp

theorem takeTime_leBytes (c : Time) (rest : List Byte) :
    takeTime (leBytes 8 c.toNat ++ rest) = some (c, rest) := by
  rw [takeTime, takeField_leBytes, Nat.mod_eq_of_lt (show c.toNat < 256 ^ 8 from c.isLt)]
  simp

theorem takeCount_eq_some {c : Count} {bytes rest : List Byte} (h : takeCount bytes = some (c, rest)) :
    bytes = leBytes 4 c.toNat ++ rest := by
  unfold takeCount at h
  split at h
  · cases h
  · rename_i v r hv
    cases h
    obtain ⟨rfl, hlt⟩ := takeField_eq_some hv
    rw [BitVec.toNat_ofNat, Nat.mod_eq_of_lt (show v < 2 ^ 32 from hlt)]

theorem takeTime_eq_some {c : Time} {bytes rest : List Byte} (h : takeTime bytes = some (c, rest)) :
    bytes = leBytes 8 c.toNat ++ rest := by
  unfold takeTime at h
  split at h
  · cases h
  · rename_i v r hv
    cases h
    obtain ⟨rfl, hlt⟩ := takeField_eq_some hv
    rw [BitVec.toNat_ofNat, Nat.mod_eq_of_lt (show v < 2 ^ 64 from hlt)]

/-- The register numbers that stand for no register are the three reserved ones (R94, R95). -/
theorem regOfNumber_none_iff (r : BitVec 4) : regOfNumber r = none ↔ r = 7#4 ∨ r = 14#4 ∨ r = 15#4 := by
  revert r; decide

theorem regOfNumber_numberOfReg (g : Reg) : regOfNumber (numberOfReg g) = some g := by
  cases g <;> decide

end Sys2Proof
end

