-- ==== Sys2Proof/Laws/Memory.lean ====
section
/-! SUPPORT. The sample memory: read after write, and that every operation keeps the canonical form. -/

namespace Sys2Proof.Machine

@[simp] theorem SampleMem.read_nil (i : Nat) : SampleMem.read [] i = Sample.cleared := rfl

theorem SampleMem.wfFrom_cons {lo j : Nat} {x : Sample} {m : SampleMem} :
    SampleMem.wfFrom lo ((j, x) :: m) = true ↔
      lo ≤ j ∧ x ≠ Sample.cleared ∧ SampleMem.wfFrom (j + 1) m = true := by
  simp [SampleMem.wfFrom, and_assoc]

theorem SampleMem.wfFrom_le {lo lo' : Nat} {m : SampleMem} (h : SampleMem.wfFrom lo m = true) (hle : lo' ≤ lo) :
    SampleMem.wfFrom lo' m = true := by
  cases m with
  | nil => rfl
  | cons e m =>
    obtain ⟨j, x⟩ := e
    rw [SampleMem.wfFrom_cons] at h ⊢
    exact ⟨hle.trans h.1, h.2⟩

theorem SampleMem.read_of_lt {lo i : Nat} {m : SampleMem} (h : SampleMem.wfFrom lo m = true) (hi : i < lo) :
    SampleMem.read m i = Sample.cleared := by
  induction m generalizing lo with
  | nil => rfl
  | cons e m ih =>
    obtain ⟨j, x⟩ := e
    obtain ⟨hj, -, hm⟩ := SampleMem.wfFrom_cons.1 h
    rw [SampleMem.read, if_neg (by omega)]
    exact ih hm (by omega)

theorem SampleMem.read_write_from {lo : Nat} {m : SampleMem} (h : SampleMem.wfFrom lo m = true) (i : Nat) (x : Sample)
    (j : Nat) : SampleMem.read (SampleMem.write m i x) j = if j = i then x else SampleMem.read m j := by
  induction m generalizing lo with
  | nil =>
    by_cases hx : x = Sample.cleared
    · simp [SampleMem.write, hx]
    · simp [SampleMem.write, hx, SampleMem.read, eq_comm]
  | cons e m ih =>
    obtain ⟨k, y⟩ := e
    obtain ⟨-, -, hm⟩ := SampleMem.wfFrom_cons.1 h
    rw [SampleMem.write]
    split
    · rename_i hik
      split
      · rename_i hx
        by_cases hji : j = i
        · subst hji
          rw [if_pos rfl, hx, SampleMem.read, if_neg (by omega)]
          exact SampleMem.read_of_lt hm (by omega)
        · rw [if_neg hji]
      · rw [SampleMem.read]
        simp only [eq_comm]
    · split
      · rename_i hik
        subst hik
        have hlow : SampleMem.read m i = Sample.cleared := SampleMem.read_of_lt hm (by omega)
        by_cases hji : j = i
        · subst hji
          split
          · rename_i hx; rw [if_pos rfl, hlow, hx]
          · simp [SampleMem.read]
        · have hij : ¬ i = j := fun h => hji h.symm
          split <;> simp [SampleMem.read, hij]
      · rename_i hki hne
        rw [SampleMem.read]
        split
        · rename_i hkj
          subst hkj
          rw [if_neg (by omega), SampleMem.read, if_pos rfl]
        · rename_i hkj
          rw [ih hm]
          simp [SampleMem.read, hkj]

/-- Read after write: the written entry reads as written, every other one as before. -/
theorem SampleMem.read_write {m : SampleMem} (h : SampleMem.wf m = true) (i : Nat) (x : Sample) (j : Nat) :
    SampleMem.read (SampleMem.write m i x) j = if j = i then x else SampleMem.read m j :=
  SampleMem.read_write_from h i x j

theorem SampleMem.write_wfFrom {lo i : Nat} {m : SampleMem} (h : SampleMem.wfFrom lo m = true) (hi : lo ≤ i)
    (x : Sample) : SampleMem.wfFrom lo (SampleMem.write m i x) = true := by
  induction m generalizing lo with
  | nil =>
    rw [SampleMem.write]
    split
    · rfl
    · rename_i hx; exact SampleMem.wfFrom_cons.2 ⟨hi, hx, rfl⟩
  | cons e m ih =>
    obtain ⟨k, y⟩ := e
    obtain ⟨hk, hy, hm⟩ := SampleMem.wfFrom_cons.1 h
    rw [SampleMem.write]
    split
    · rename_i hik
      split
      · exact h
      · rename_i hx
        exact SampleMem.wfFrom_cons.2 ⟨hi, hx, SampleMem.wfFrom_cons.2 ⟨by omega, hy, hm⟩⟩
    · split
      · split
        · exact SampleMem.wfFrom_le hm (by omega)
        · rename_i hik hx
          subst hik
          exact SampleMem.wfFrom_cons.2 ⟨hi, hx, hm⟩
      · exact SampleMem.wfFrom_cons.2 ⟨hk, hy, ih hm (by omega)⟩

/-- A write keeps the canonical form. -/
theorem SampleMem.write_wf {m : SampleMem} (h : SampleMem.wf m = true) (i : Nat) (x : Sample) :
    SampleMem.wf (SampleMem.write m i x) = true :=
  SampleMem.write_wfFrom h (Nat.zero_le i) x

/-- A write below the capacity lists nothing at or above it. -/
theorem SampleMem.write_below {cap i : Nat} {m : SampleMem} (h : SampleMem.below cap m = true) (hi : i < cap)
    (x : Sample) : SampleMem.below cap (SampleMem.write m i x) = true := by
  induction m with
  | nil =>
    rw [SampleMem.write]
    split <;> simp [SampleMem.below, hi]
  | cons e m ih =>
    obtain ⟨k, y⟩ := e
    have hk : k < cap ∧ SampleMem.below cap m = true := by
      simpa [SampleMem.below] using h
    have ih := ih hk.2
    simp only [SampleMem.below] at ih hk ⊢
    rw [SampleMem.write]
    split
    · split <;> simp [hi, hk]
    · split
      · split <;> simp [hi, hk]
      · simp [hk, ih]

theorem SampleMem.drawnFrom_wfFrom (f : Nat → Sample) (lo n : Nat) :
    SampleMem.wfFrom lo (SampleMem.drawnFrom f lo n) = true := by
  induction n generalizing lo with
  | zero => rfl
  | succ n ih =>
    rw [SampleMem.drawnFrom]
    split
    · exact SampleMem.wfFrom_le (ih (lo + 1)) (by omega)
    · rename_i hx; exact SampleMem.wfFrom_cons.2 ⟨le_refl lo, hx, ih (lo + 1)⟩

/-- Drawn contents are in canonical form. -/
theorem SampleMem.drawnFrom_wf (f : Nat → Sample) (n : Nat) : SampleMem.wf (SampleMem.drawnFrom f 0 n) = true :=
  SampleMem.drawnFrom_wfFrom f 0 n

/-- Drawn contents lie below the capacity. -/
theorem SampleMem.drawnFrom_below (f : Nat → Sample) (lo n : Nat) :
    SampleMem.below (lo + n) (SampleMem.drawnFrom f lo n) = true := by
  induction n generalizing lo with
  | zero => rfl
  | succ n ih =>
    have ih := ih (lo + 1)
    rw [show lo + 1 + n = lo + (n + 1) by omega] at ih
    rw [SampleMem.drawnFrom]
    split
    · exact ih
    · simp only [SampleMem.below, List.all_cons, Bool.and_eq_true, decide_eq_true_eq] at ih ⊢
      exact ⟨by omega, ih⟩

/-- Equal memories are equal data: two canonical memories that read alike everywhere are one list. -/
theorem SampleMem.ext_of_read {lo : Nat} {m m' : SampleMem} (h : SampleMem.wfFrom lo m = true)
    (h' : SampleMem.wfFrom lo m' = true) (heq : ∀ i, SampleMem.read m i = SampleMem.read m' i) : m = m' := by
  induction m generalizing lo m' with
  | nil =>
    cases m' with
    | nil => rfl
    | cons e m' =>
      obtain ⟨j, y⟩ := e
      obtain ⟨-, hy, -⟩ := SampleMem.wfFrom_cons.1 h'
      exact absurd (by simpa [SampleMem.read] using (heq j).symm) hy
  | cons e m ih =>
    obtain ⟨i, x⟩ := e
    obtain ⟨hi, hx, hm⟩ := SampleMem.wfFrom_cons.1 h
    cases m' with
    | nil => exact absurd (by simpa [SampleMem.read] using heq i) hx
    | cons e' m' =>
      obtain ⟨j, y⟩ := e'
      obtain ⟨hj, hy, hm'⟩ := SampleMem.wfFrom_cons.1 h'
      have hij : i = j := by
        rcases Nat.lt_trichotomy i j with hlt | heq' | hgt
        · have := heq i
          rw [SampleMem.read, if_pos rfl, SampleMem.read, if_neg (by omega),
            SampleMem.read_of_lt hm' (by omega)] at this
          exact absurd this hx
        · exact heq'
        · have := heq j
          rw [SampleMem.read, if_neg (by omega), SampleMem.read_of_lt hm (by omega), SampleMem.read,
            if_pos rfl] at this
          exact absurd this.symm hy
      subst hij
      have hxy : x = y := by simpa [SampleMem.read] using heq i
      subst hxy
      rw [ih hm hm' ?_]
      intro k
      rcases Nat.lt_or_ge k (i + 1) with hk | hk
      · rw [SampleMem.read_of_lt hm hk, SampleMem.read_of_lt hm' hk]
      · have := heq k
        simpa [SampleMem.read, show ¬ i = k by omega] using this

/-- An index at or above the capacity is not listed. -/
theorem SampleMem.read_of_below {cap j : Nat} {m : SampleMem} (h : SampleMem.below cap m = true) (hj : cap ≤ j) :
    SampleMem.read m j = Sample.cleared := by
  induction m with
  | nil => rfl
  | cons e m ih =>
    obtain ⟨k, y⟩ := e
    have hk : k < cap ∧ SampleMem.below cap m = true := by simpa [SampleMem.below] using h
    rw [SampleMem.read, if_neg (by omega)]
    exact ih hk.2

/-- BCLR's loop of R181: clearing every entry one by one leaves the empty list, which is what `clearBuffer` writes. -/
theorem SampleMem.clear_each {m : SampleMem} (h : SampleMem.wf m = true) (cap : Nat)
    (hb : SampleMem.below cap m = true) :
    (List.range cap).foldl (fun m i => SampleMem.write m i Sample.cleared) m = [] := by
  have key : ∀ n, SampleMem.wf ((List.range n).foldl (fun m i => SampleMem.write m i Sample.cleared) m) = true ∧
      SampleMem.below cap ((List.range n).foldl (fun m i => SampleMem.write m i Sample.cleared) m) = true ∨ cap < n := by
    intro n
    induction n with
    | zero => exact .inl ⟨h, hb⟩
    | succ n ih =>
      rcases ih with ⟨h1, h2⟩ | h3
      · rcases Nat.lt_or_ge n cap with hn | hn
        · left
          simp only [List.range_succ, List.foldl_append, List.foldl_cons, List.foldl_nil]
          exact ⟨SampleMem.write_wf h1 _ _, SampleMem.write_below h2 hn _⟩
        · right; omega
      · right; omega
  have reads : ∀ n ≤ cap, ∀ j, SampleMem.read ((List.range n).foldl (fun m i => SampleMem.write m i Sample.cleared) m) j
      = if j < n then Sample.cleared else SampleMem.read m j := by
    intro n
    induction n with
    | zero => intro _ j; simp
    | succ n ih =>
      intro hn j
      have hwf := (key n).resolve_right (by omega)
      simp only [List.range_succ, List.foldl_append, List.foldl_cons, List.foldl_nil]
      rw [SampleMem.read_write hwf.1, ih (by omega)]
      split
      · subst_vars; simp
      · by_cases hj : j < n
        · simp [hj, show j < n + 1 by omega]
        · simp [hj, show ¬ j < n + 1 by omega]
  refine SampleMem.ext_of_read ((key cap).resolve_right (by omega)).1 (lo := 0) rfl ?_
  intro j
  rw [reads cap (le_refl cap)]
  split
  · rfl
  · exact SampleMem.read_of_below hb (by omega)

/-- The sample memory at power-on is in canonical form. -/
theorem State.powerOn_smp_wf (c : Capacity) : SampleMem.wf (State.powerOn c).smp = true := rfl

end Sys2Proof.Machine
end

