-- ==== Sys2Proof/Laws/State.lean ====
section
/-! SUPPORT. One lemma per field per update of Machine/Ops.lean, each true by rfl. -/

namespace Sys2Proof.Machine

variable (s : State)

/-! ### noteWindow -/

@[simp] theorem State.noteWindow_lastEdge : s.noteWindow.lastEdge = s.lastEdge := rfl
@[simp] theorem State.noteWindow_seeded : s.noteWindow.seeded = s.seeded := rfl
@[simp] theorem State.noteWindow_smp : s.noteWindow.smp = s.smp := rfl
@[simp] theorem State.noteWindow_stepCount : s.noteWindow.stepCount = s.stepCount := rfl
@[simp] theorem State.noteWindow_profile : s.noteWindow.profile = s.profile := rfl
@[simp] theorem State.noteWindow_ploaded : s.noteWindow.ploaded = s.ploaded := rfl
@[simp] theorem State.noteWindow_dstate : s.noteWindow.dstate = s.dstate := rfl
@[simp] theorem State.noteWindow_snap : s.noteWindow.snap = s.snap := rfl
@[simp] theorem State.noteWindow_cursor : s.noteWindow.cursor = s.cursor := rfl
@[simp] theorem State.noteWindow_bits : s.noteWindow.bits = s.bits := rfl
@[simp] theorem State.noteWindow_error : s.noteWindow.error = s.error := rfl
@[simp] theorem State.noteWindow_code : s.noteWindow.code = s.code := rfl
@[simp] theorem State.noteWindow_init : s.noteWindow.init = s.init := rfl
@[simp] theorem State.noteWindow_taint : s.noteWindow.taint = (s.taint || s.busy) := rfl
@[simp] theorem State.noteWindow_capacity : s.noteWindow.capacity = s.capacity := rfl
@[simp] theorem State.noteWindow_trace : s.noteWindow.trace = s.trace := rfl
@[simp] theorem State.noteWindow_readData : s.noteWindow.readData = s.readData := rfl
@[simp] theorem State.noteWindow_draws : s.noteWindow.draws = s.draws := rfl

/-! ### seed -/

@[simp] theorem State.seed_lastEdge (now : Time) : (s.seed now).lastEdge = now := rfl
@[simp] theorem State.seed_seeded (now : Time) : (s.seed now).seeded = true := rfl
@[simp] theorem State.seed_smp (now : Time) : (s.seed now).smp = s.smp := rfl
@[simp] theorem State.seed_stepCount (now : Time) : (s.seed now).stepCount = s.stepCount := rfl
@[simp] theorem State.seed_profile (now : Time) : (s.seed now).profile = s.profile := rfl
@[simp] theorem State.seed_ploaded (now : Time) : (s.seed now).ploaded = s.ploaded := rfl
@[simp] theorem State.seed_dstate (now : Time) : (s.seed now).dstate = s.dstate := rfl
@[simp] theorem State.seed_snap (now : Time) : (s.seed now).snap = s.snap := rfl
@[simp] theorem State.seed_cursor (now : Time) : (s.seed now).cursor = s.cursor := rfl
@[simp] theorem State.seed_bits (now : Time) : (s.seed now).bits = s.bits := rfl
@[simp] theorem State.seed_error (now : Time) : (s.seed now).error = s.error := rfl
@[simp] theorem State.seed_code (now : Time) : (s.seed now).code = s.code := rfl
@[simp] theorem State.seed_init (now : Time) : (s.seed now).init = s.init := rfl
@[simp] theorem State.seed_taint (now : Time) : (s.seed now).taint = s.taint := rfl
@[simp] theorem State.seed_capacity (now : Time) : (s.seed now).capacity = s.capacity := rfl
@[simp] theorem State.seed_trace (now : Time) : (s.seed now).trace = s.trace := rfl
@[simp] theorem State.seed_readData (now : Time) : (s.seed now).readData = s.readData := rfl
@[simp] theorem State.seed_draws (now : Time) : (s.seed now).draws = s.draws := rfl

/-! ### commit -/

@[simp] theorem State.commit_lastEdge (k : EdgeKind) (now : Time) : (s.commit k now).lastEdge = now := rfl
@[simp] theorem State.commit_seeded (k : EdgeKind) (now : Time) : (s.commit k now).seeded = s.seeded := rfl
@[simp] theorem State.commit_smp (k : EdgeKind) (now : Time) :
    (s.commit k now).smp =
      SampleMem.write s.smp s.stepCount.toNat { level := levelEnded k, duration := now - s.lastEdge } := rfl
@[simp] theorem State.commit_stepCount (k : EdgeKind) (now : Time) :
    (s.commit k now).stepCount = s.stepCount + 1#32 := rfl
@[simp] theorem State.commit_profile (k : EdgeKind) (now : Time) : (s.commit k now).profile = s.profile := rfl
@[simp] theorem State.commit_ploaded (k : EdgeKind) (now : Time) : (s.commit k now).ploaded = s.ploaded := rfl
@[simp] theorem State.commit_dstate (k : EdgeKind) (now : Time) : (s.commit k now).dstate = s.dstate := rfl
@[simp] theorem State.commit_snap (k : EdgeKind) (now : Time) : (s.commit k now).snap = s.snap := rfl
@[simp] theorem State.commit_cursor (k : EdgeKind) (now : Time) : (s.commit k now).cursor = s.cursor := rfl
@[simp] theorem State.commit_bits (k : EdgeKind) (now : Time) : (s.commit k now).bits = s.bits := rfl
@[simp] theorem State.commit_error (k : EdgeKind) (now : Time) : (s.commit k now).error = s.error := rfl
@[simp] theorem State.commit_code (k : EdgeKind) (now : Time) : (s.commit k now).code = s.code := rfl
@[simp] theorem State.commit_init (k : EdgeKind) (now : Time) : (s.commit k now).init = s.init := rfl
@[simp] theorem State.commit_taint (k : EdgeKind) (now : Time) : (s.commit k now).taint = s.taint := rfl
@[simp] theorem State.commit_capacity (k : EdgeKind) (now : Time) : (s.commit k now).capacity = s.capacity := rfl
@[simp] theorem State.commit_trace (k : EdgeKind) (now : Time) : (s.commit k now).trace = s.trace := rfl
@[simp] theorem State.commit_readData (k : EdgeKind) (now : Time) : (s.commit k now).readData = s.readData := rfl
@[simp] theorem State.commit_draws (k : EdgeKind) (now : Time) : (s.commit k now).draws = s.draws := rfl

/-! ### drawCapture -/

@[simp] theorem State.drawCapture_lastEdge : s.drawCapture.lastEdge = Config.freeWord (s.draws + 3) := rfl
@[simp] theorem State.drawCapture_seeded : s.drawCapture.seeded = Config.freeFlag (s.draws + 2) := rfl
@[simp] theorem State.drawCapture_smp :
    s.drawCapture.smp = SampleMem.drawnFrom (Config.freeSample s.draws) 0 s.capacity.val := rfl
@[simp] theorem State.drawCapture_stepCount : s.drawCapture.stepCount = Config.freeCount (s.draws + 1) := rfl
@[simp] theorem State.drawCapture_profile : s.drawCapture.profile = s.profile := rfl
@[simp] theorem State.drawCapture_ploaded : s.drawCapture.ploaded = s.ploaded := rfl
@[simp] theorem State.drawCapture_dstate : s.drawCapture.dstate = s.dstate := rfl
@[simp] theorem State.drawCapture_snap : s.drawCapture.snap = s.snap := rfl
@[simp] theorem State.drawCapture_cursor : s.drawCapture.cursor = s.cursor := rfl
@[simp] theorem State.drawCapture_bits : s.drawCapture.bits = s.bits := rfl
@[simp] theorem State.drawCapture_error : s.drawCapture.error = s.error := rfl
@[simp] theorem State.drawCapture_code : s.drawCapture.code = s.code := rfl
@[simp] theorem State.drawCapture_init : s.drawCapture.init = s.init := rfl
@[simp] theorem State.drawCapture_taint : s.drawCapture.taint = s.taint := rfl
@[simp] theorem State.drawCapture_capacity : s.drawCapture.capacity = s.capacity := rfl
@[simp] theorem State.drawCapture_trace : s.drawCapture.trace = s.trace := rfl
@[simp] theorem State.drawCapture_readData : s.drawCapture.readData = s.readData := rfl
@[simp] theorem State.drawCapture_draws : s.drawCapture.draws = s.draws + 4 := rfl

/-! ### clearBuffer -/

@[simp] theorem State.clearBuffer_lastEdge : s.clearBuffer.lastEdge = s.lastEdge := rfl
@[simp] theorem State.clearBuffer_seeded : s.clearBuffer.seeded = false := rfl
@[simp] theorem State.clearBuffer_smp : s.clearBuffer.smp = [] := rfl
@[simp] theorem State.clearBuffer_stepCount : s.clearBuffer.stepCount = 0#32 := rfl
@[simp] theorem State.clearBuffer_profile : s.clearBuffer.profile = s.profile := rfl
@[simp] theorem State.clearBuffer_ploaded : s.clearBuffer.ploaded = s.ploaded := rfl
@[simp] theorem State.clearBuffer_dstate : s.clearBuffer.dstate = s.dstate := rfl
@[simp] theorem State.clearBuffer_snap : s.clearBuffer.snap = s.snap := rfl
@[simp] theorem State.clearBuffer_cursor : s.clearBuffer.cursor = s.cursor := rfl
@[simp] theorem State.clearBuffer_bits : s.clearBuffer.bits = s.bits := rfl
@[simp] theorem State.clearBuffer_error : s.clearBuffer.error = s.error := rfl
@[simp] theorem State.clearBuffer_code : s.clearBuffer.code = s.code := rfl
@[simp] theorem State.clearBuffer_init : s.clearBuffer.init = true := rfl
@[simp] theorem State.clearBuffer_taint : s.clearBuffer.taint = s.taint := rfl
@[simp] theorem State.clearBuffer_capacity : s.clearBuffer.capacity = s.capacity := rfl
@[simp] theorem State.clearBuffer_trace : s.clearBuffer.trace = s.trace := rfl
@[simp] theorem State.clearBuffer_readData : s.clearBuffer.readData = s.readData := rfl
@[simp] theorem State.clearBuffer_draws : s.clearBuffer.draws = s.draws := rfl

/-! ### loadProfile -/

@[simp] theorem State.loadProfile_lastEdge (p : Profile) : (s.loadProfile p).lastEdge = s.lastEdge := rfl
@[simp] theorem State.loadProfile_seeded (p : Profile) : (s.loadProfile p).seeded = s.seeded := rfl
@[simp] theorem State.loadProfile_smp (p : Profile) : (s.loadProfile p).smp = s.smp := rfl
@[simp] theorem State.loadProfile_stepCount (p : Profile) : (s.loadProfile p).stepCount = s.stepCount := rfl
@[simp] theorem State.loadProfile_profile (p : Profile) : (s.loadProfile p).profile = p := rfl
@[simp] theorem State.loadProfile_ploaded (p : Profile) : (s.loadProfile p).ploaded = true := rfl
@[simp] theorem State.loadProfile_dstate (p : Profile) : (s.loadProfile p).dstate = s.dstate := rfl
@[simp] theorem State.loadProfile_snap (p : Profile) : (s.loadProfile p).snap = s.snap := rfl
@[simp] theorem State.loadProfile_cursor (p : Profile) : (s.loadProfile p).cursor = s.cursor := rfl
@[simp] theorem State.loadProfile_bits (p : Profile) : (s.loadProfile p).bits = s.bits := rfl
@[simp] theorem State.loadProfile_error (p : Profile) : (s.loadProfile p).error = s.error := rfl
@[simp] theorem State.loadProfile_code (p : Profile) : (s.loadProfile p).code = s.code := rfl
@[simp] theorem State.loadProfile_init (p : Profile) : (s.loadProfile p).init = s.init := rfl
@[simp] theorem State.loadProfile_taint (p : Profile) : (s.loadProfile p).taint = s.taint := rfl
@[simp] theorem State.loadProfile_capacity (p : Profile) : (s.loadProfile p).capacity = s.capacity := rfl
@[simp] theorem State.loadProfile_trace (p : Profile) : (s.loadProfile p).trace = s.trace := rfl
@[simp] theorem State.loadProfile_readData (p : Profile) : (s.loadProfile p).readData = s.readData := rfl
@[simp] theorem State.loadProfile_draws (p : Profile) : (s.loadProfile p).draws = s.draws := rfl

/-! ### beginDecode -/

@[simp] theorem State.beginDecode_lastEdge : s.beginDecode.lastEdge = s.lastEdge := rfl
@[simp] theorem State.beginDecode_seeded : s.beginDecode.seeded = s.seeded := rfl
@[simp] theorem State.beginDecode_smp : s.beginDecode.smp = s.smp := rfl
@[simp] theorem State.beginDecode_stepCount : s.beginDecode.stepCount = s.stepCount := rfl
@[simp] theorem State.beginDecode_profile : s.beginDecode.profile = s.profile := rfl
@[simp] theorem State.beginDecode_ploaded : s.beginDecode.ploaded = s.ploaded := rfl
@[simp] theorem State.beginDecode_dstate : s.beginDecode.dstate = .awaitingWakeup := rfl
@[simp] theorem State.beginDecode_snap : s.beginDecode.snap = s.stepCount := rfl
@[simp] theorem State.beginDecode_cursor : s.beginDecode.cursor = 0#32 := rfl
@[simp] theorem State.beginDecode_bits : s.beginDecode.bits = 0#32 := rfl
@[simp] theorem State.beginDecode_error : s.beginDecode.error = false := rfl
@[simp] theorem State.beginDecode_code : s.beginDecode.code = 0#64 := rfl
@[simp] theorem State.beginDecode_init : s.beginDecode.init = s.init := rfl
@[simp] theorem State.beginDecode_taint : s.beginDecode.taint = false := rfl
@[simp] theorem State.beginDecode_capacity : s.beginDecode.capacity = s.capacity := rfl
@[simp] theorem State.beginDecode_trace : s.beginDecode.trace = s.trace := rfl
@[simp] theorem State.beginDecode_readData : s.beginDecode.readData = s.readData := rfl
@[simp] theorem State.beginDecode_draws : s.beginDecode.draws = s.draws := rfl

/-! ### wakeStep -/

@[simp] theorem State.wakeStep_lastEdge : s.wakeStep.lastEdge = s.lastEdge := rfl
@[simp] theorem State.wakeStep_seeded : s.wakeStep.seeded = s.seeded := rfl
@[simp] theorem State.wakeStep_smp : s.wakeStep.smp = s.smp := rfl
@[simp] theorem State.wakeStep_stepCount : s.wakeStep.stepCount = s.stepCount := rfl
@[simp] theorem State.wakeStep_profile : s.wakeStep.profile = s.profile := rfl
@[simp] theorem State.wakeStep_ploaded : s.wakeStep.ploaded = s.ploaded := rfl
@[simp] theorem State.wakeStep_dstate : s.wakeStep.dstate = .decodingBits := rfl
@[simp] theorem State.wakeStep_snap : s.wakeStep.snap = s.snap := rfl
@[simp] theorem State.wakeStep_cursor :
    s.wakeStep.cursor = if s.profile.wakeupStepCount ≤ s.snap then s.profile.wakeupStepCount else s.snap := rfl
@[simp] theorem State.wakeStep_bits : s.wakeStep.bits = s.bits := rfl
@[simp] theorem State.wakeStep_error : s.wakeStep.error = s.error := rfl
@[simp] theorem State.wakeStep_code : s.wakeStep.code = s.code := rfl
@[simp] theorem State.wakeStep_init : s.wakeStep.init = s.init := rfl
@[simp] theorem State.wakeStep_taint : s.wakeStep.taint = s.taint := rfl
@[simp] theorem State.wakeStep_capacity : s.wakeStep.capacity = s.capacity := rfl
@[simp] theorem State.wakeStep_trace : s.wakeStep.trace = s.trace := rfl
@[simp] theorem State.wakeStep_readData : s.wakeStep.readData = s.readData := rfl
@[simp] theorem State.wakeStep_draws : s.wakeStep.draws = s.draws := rfl

/-! ### finishTainted -/

@[simp] theorem State.finishTainted_lastEdge : s.finishTainted.lastEdge = s.lastEdge := rfl
@[simp] theorem State.finishTainted_seeded : s.finishTainted.seeded = s.seeded := rfl
@[simp] theorem State.finishTainted_smp : s.finishTainted.smp = s.smp := rfl
@[simp] theorem State.finishTainted_stepCount : s.finishTainted.stepCount = s.stepCount := rfl
@[simp] theorem State.finishTainted_profile : s.finishTainted.profile = s.profile := rfl
@[simp] theorem State.finishTainted_ploaded : s.finishTainted.ploaded = s.ploaded := rfl
@[simp] theorem State.finishTainted_dstate :
    s.finishTainted.dstate = dstateOfTerminal (Config.freeTerminal (s.draws + 4)) := rfl
@[simp] theorem State.finishTainted_snap : s.finishTainted.snap = s.snap := rfl
@[simp] theorem State.finishTainted_cursor : s.finishTainted.cursor = Config.freeCount (s.draws + 3) := rfl
@[simp] theorem State.finishTainted_bits : s.finishTainted.bits = Config.freeCount (s.draws + 1) := rfl
@[simp] theorem State.finishTainted_error : s.finishTainted.error = Config.freeFlag (s.draws + 2) := rfl
@[simp] theorem State.finishTainted_code : s.finishTainted.code = Config.freeWord s.draws := rfl
@[simp] theorem State.finishTainted_init : s.finishTainted.init = s.init := rfl
@[simp] theorem State.finishTainted_taint : s.finishTainted.taint = s.taint := rfl
@[simp] theorem State.finishTainted_capacity : s.finishTainted.capacity = s.capacity := rfl
@[simp] theorem State.finishTainted_trace : s.finishTainted.trace = s.trace := rfl
@[simp] theorem State.finishTainted_readData : s.finishTainted.readData = s.readData := rfl
@[simp] theorem State.finishTainted_draws : s.finishTainted.draws = s.draws + 5 := rfl

/-! ### finishClean -/

@[simp] theorem State.finishClean_lastEdge : s.finishClean.lastEdge = s.lastEdge := rfl
@[simp] theorem State.finishClean_seeded : s.finishClean.seeded = s.seeded := rfl
@[simp] theorem State.finishClean_smp : s.finishClean.smp = s.smp := rfl
@[simp] theorem State.finishClean_stepCount : s.finishClean.stepCount = s.stepCount := rfl
@[simp] theorem State.finishClean_profile : s.finishClean.profile = s.profile := rfl
@[simp] theorem State.finishClean_ploaded : s.finishClean.ploaded = s.ploaded := rfl
@[simp] theorem State.finishClean_dstate : s.finishClean.dstate = s.terminalState := rfl
@[simp] theorem State.finishClean_snap : s.finishClean.snap = s.snap := rfl
@[simp] theorem State.finishClean_cursor : s.finishClean.cursor = s.cursor := rfl
@[simp] theorem State.finishClean_bits : s.finishClean.bits = s.bits := rfl
@[simp] theorem State.finishClean_error : s.finishClean.error = s.error := rfl
@[simp] theorem State.finishClean_code : s.finishClean.code = s.code := rfl
@[simp] theorem State.finishClean_init : s.finishClean.init = s.init := rfl
@[simp] theorem State.finishClean_taint : s.finishClean.taint = s.taint := rfl
@[simp] theorem State.finishClean_capacity : s.finishClean.capacity = s.capacity := rfl
@[simp] theorem State.finishClean_trace : s.finishClean.trace = s.trace := rfl
@[simp] theorem State.finishClean_readData : s.finishClean.readData = s.readData := rfl
@[simp] theorem State.finishClean_draws : s.finishClean.draws = s.draws := rfl

/-! ### consumePair -/

@[simp] theorem State.consumePair_lastEdge (lo hi : Duration) : (s.consumePair lo hi).lastEdge = s.lastEdge := rfl
@[simp] theorem State.consumePair_seeded (lo hi : Duration) : (s.consumePair lo hi).seeded = s.seeded := rfl
@[simp] theorem State.consumePair_smp (lo hi : Duration) : (s.consumePair lo hi).smp = s.smp := rfl
@[simp] theorem State.consumePair_stepCount (lo hi : Duration) : (s.consumePair lo hi).stepCount = s.stepCount := rfl
@[simp] theorem State.consumePair_profile (lo hi : Duration) : (s.consumePair lo hi).profile = s.profile := rfl
@[simp] theorem State.consumePair_ploaded (lo hi : Duration) : (s.consumePair lo hi).ploaded = s.ploaded := rfl
@[simp] theorem State.consumePair_dstate (lo hi : Duration) : (s.consumePair lo hi).dstate = s.dstate := rfl
@[simp] theorem State.consumePair_snap (lo hi : Duration) : (s.consumePair lo hi).snap = s.snap := rfl
@[simp] theorem State.consumePair_cursor (lo hi : Duration) : (s.consumePair lo hi).cursor = s.cursor + 2#32 := rfl
@[simp] theorem State.consumePair_bits (lo hi : Duration) : (s.consumePair lo hi).bits = s.bits + 1#32 := rfl
@[simp] theorem State.consumePair_error (lo hi : Duration) :
    (s.consumePair lo hi).error = (s.error || lowAnomaly s.profile lo || noisyHigh s.profile hi) := rfl
@[simp] theorem State.consumePair_code (lo hi : Duration) :
    (s.consumePair lo hi).code = (s.code <<< 1) ||| (if acceptedOne s.profile hi then 1#64 else 0#64) := rfl
@[simp] theorem State.consumePair_init (lo hi : Duration) : (s.consumePair lo hi).init = s.init := rfl
@[simp] theorem State.consumePair_taint (lo hi : Duration) : (s.consumePair lo hi).taint = s.taint := rfl
@[simp] theorem State.consumePair_capacity (lo hi : Duration) : (s.consumePair lo hi).capacity = s.capacity := rfl
@[simp] theorem State.consumePair_trace (lo hi : Duration) : (s.consumePair lo hi).trace = s.trace := rfl
@[simp] theorem State.consumePair_readData (lo hi : Duration) : (s.consumePair lo hi).readData = s.readData := rfl
@[simp] theorem State.consumePair_draws (lo hi : Duration) : (s.consumePair lo hi).draws = s.draws := rfl

/-! ### skipPair -/

@[simp] theorem State.skipPair_lastEdge : s.skipPair.lastEdge = s.lastEdge := rfl
@[simp] theorem State.skipPair_seeded : s.skipPair.seeded = s.seeded := rfl
@[simp] theorem State.skipPair_smp : s.skipPair.smp = s.smp := rfl
@[simp] theorem State.skipPair_stepCount : s.skipPair.stepCount = s.stepCount := rfl
@[simp] theorem State.skipPair_profile : s.skipPair.profile = s.profile := rfl
@[simp] theorem State.skipPair_ploaded : s.skipPair.ploaded = s.ploaded := rfl
@[simp] theorem State.skipPair_dstate : s.skipPair.dstate = s.dstate := rfl
@[simp] theorem State.skipPair_snap : s.skipPair.snap = s.snap := rfl
@[simp] theorem State.skipPair_cursor : s.skipPair.cursor = s.cursor + 2#32 := rfl
@[simp] theorem State.skipPair_bits : s.skipPair.bits = s.bits := rfl
@[simp] theorem State.skipPair_error : s.skipPair.error = s.error := rfl
@[simp] theorem State.skipPair_code : s.skipPair.code = s.code := rfl
@[simp] theorem State.skipPair_init : s.skipPair.init = s.init := rfl
@[simp] theorem State.skipPair_taint : s.skipPair.taint = s.taint := rfl
@[simp] theorem State.skipPair_capacity : s.skipPair.capacity = s.capacity := rfl
@[simp] theorem State.skipPair_trace : s.skipPair.trace = s.trace := rfl
@[simp] theorem State.skipPair_readData : s.skipPair.readData = s.readData := rfl
@[simp] theorem State.skipPair_draws : s.skipPair.draws = s.draws := rfl

/-! ### setRead -/

@[simp] theorem State.setRead_lastEdge (d : ReadData) : (s.setRead d).lastEdge = s.lastEdge := rfl
@[simp] theorem State.setRead_seeded (d : ReadData) : (s.setRead d).seeded = s.seeded := rfl
@[simp] theorem State.setRead_smp (d : ReadData) : (s.setRead d).smp = s.smp := rfl
@[simp] theorem State.setRead_stepCount (d : ReadData) : (s.setRead d).stepCount = s.stepCount := rfl
@[simp] theorem State.setRead_profile (d : ReadData) : (s.setRead d).profile = s.profile := rfl
@[simp] theorem State.setRead_ploaded (d : ReadData) : (s.setRead d).ploaded = s.ploaded := rfl
@[simp] theorem State.setRead_dstate (d : ReadData) : (s.setRead d).dstate = s.dstate := rfl
@[simp] theorem State.setRead_snap (d : ReadData) : (s.setRead d).snap = s.snap := rfl
@[simp] theorem State.setRead_cursor (d : ReadData) : (s.setRead d).cursor = s.cursor := rfl
@[simp] theorem State.setRead_bits (d : ReadData) : (s.setRead d).bits = s.bits := rfl
@[simp] theorem State.setRead_error (d : ReadData) : (s.setRead d).error = s.error := rfl
@[simp] theorem State.setRead_code (d : ReadData) : (s.setRead d).code = s.code := rfl
@[simp] theorem State.setRead_init (d : ReadData) : (s.setRead d).init = s.init := rfl
@[simp] theorem State.setRead_taint (d : ReadData) : (s.setRead d).taint = s.taint := rfl
@[simp] theorem State.setRead_capacity (d : ReadData) : (s.setRead d).capacity = s.capacity := rfl
@[simp] theorem State.setRead_trace (d : ReadData) : (s.setRead d).trace = s.trace := rfl
@[simp] theorem State.setRead_readData (d : ReadData) : (s.setRead d).readData = some d := rfl
@[simp] theorem State.setRead_draws (d : ReadData) : (s.setRead d).draws = s.draws := rfl

/-! ### drawRead -/

@[simp] theorem State.drawRead_lastEdge : s.drawRead.lastEdge = s.lastEdge := rfl
@[simp] theorem State.drawRead_seeded : s.drawRead.seeded = s.seeded := rfl
@[simp] theorem State.drawRead_smp : s.drawRead.smp = s.smp := rfl
@[simp] theorem State.drawRead_stepCount : s.drawRead.stepCount = s.stepCount := rfl
@[simp] theorem State.drawRead_profile : s.drawRead.profile = s.profile := rfl
@[simp] theorem State.drawRead_ploaded : s.drawRead.ploaded = s.ploaded := rfl
@[simp] theorem State.drawRead_dstate : s.drawRead.dstate = s.dstate := rfl
@[simp] theorem State.drawRead_snap : s.drawRead.snap = s.snap := rfl
@[simp] theorem State.drawRead_cursor : s.drawRead.cursor = s.cursor := rfl
@[simp] theorem State.drawRead_bits : s.drawRead.bits = s.bits := rfl
@[simp] theorem State.drawRead_error : s.drawRead.error = s.error := rfl
@[simp] theorem State.drawRead_code : s.drawRead.code = s.code := rfl
@[simp] theorem State.drawRead_init : s.drawRead.init = s.init := rfl
@[simp] theorem State.drawRead_taint : s.drawRead.taint = s.taint := rfl
@[simp] theorem State.drawRead_capacity : s.drawRead.capacity = s.capacity := rfl
@[simp] theorem State.drawRead_trace : s.drawRead.trace = s.trace := rfl
@[simp] theorem State.drawRead_readData : s.drawRead.readData = some (.reg (Config.freeWord s.draws)) := rfl
@[simp] theorem State.drawRead_draws : s.drawRead.draws = s.draws + 1 := rfl

end Sys2Proof.Machine
end

