-- ==== Sys2Proof/Laws/Ops.lean ====
section
/-! SUPPORT. For each shared operation, once, everything it can do. -/

namespace Sys2Proof.Machine

/-! ## Conditions -/

theorem State.busy_iff (s : State) : s.busy = true ↔ s.dstate = .awaitingWakeup ∨ s.dstate = .decodingBits := by
  unfold State.busy; cases s.dstate <;> simp

theorem State.terminal_iff (s : State) :
    s.terminal = true ↔ s.dstate = .complete ∨ s.dstate = .truncated ∨ s.dstate = .error := by
  unfold State.terminal; cases s.dstate <;> simp

theorem State.full_iff (s : State) : s.full = true ↔ s.capacity.val ≤ s.stepCount.toNat := by simp [State.full]

theorem State.not_full_iff (s : State) : s.full = false ↔ s.stepCount.toNat < s.capacity.val := by simp [State.full]

theorem State.accepts_iff (s : State) :
    s.accepts = true ↔ s.init = true ∧ s.stepCount.toNat < s.capacity.val := by
  simp [State.accepts, State.full]

theorem State.pairLeft_iff (s : State) : s.pairLeft = true ↔ s.cursor.toNat + 2 ≤ s.snap.toNat := by
  simp [State.pairLeft]

theorem State.extraPairLeft_iff (s : State) :
    s.extraPairLeft = true ↔ s.cursor.toNat + 2 ≤ min s.snap.toNat s.profile.expectedStepCount.toNat := by
  simp [State.extraPairLeft]

theorem State.bitsWanted_iff (s : State) : s.bitsWanted = true ↔ s.bits.toNat < s.profile.bitCount.toNat := by
  simp [State.bitsWanted]

theorem separatorIn_iff (p : Profile) (lo hi : Duration) :
    separatorIn p lo hi = true ↔ p.separatorThreshold < lo ∨ p.separatorThreshold < hi := by
  simp [separatorIn]

theorem lowAnomaly_iff (p : Profile) (lo : Duration) : lowAnomaly p lo = true ↔ p.zeroOneThreshold < lo := by
  simp [lowAnomaly]

theorem acceptedOne_iff (p : Profile) (hi : Duration) :
    acceptedOne p hi = true ↔ p.zeroOneThreshold < hi ∧ hi < p.noiseCeiling := by
  simp [acceptedOne]

theorem noisyHigh_iff (p : Profile) (hi : Duration) :
    noisyHigh p hi = true ↔ p.zeroOneThreshold < hi ∧ p.noiseCeiling ≤ hi := by
  simp [noisyHigh]

theorem State.busy_ne_idle {s : State} (h : s.busy = true) : s.dstate ≠ .idle := by
  intro hi; simp [State.busy, hi] at h

/-! ## Exact counts (R10) -/

theorem count_add_two {c x : Count} (h : c.toNat + 2 ≤ x.toNat) : (c + 2#32).toNat = c.toNat + 2 := by
  have := x.isLt
  simp only [BitVec.toNat_add, BitVec.toNat_ofNat]
  omega

theorem count_add_one {c : Count} {n : Nat} (h : c.toNat < n) (hn : n ≤ 2 ^ 32 - 1) :
    (c + 1#32).toNat = c.toNat + 1 := by
  simp only [BitVec.toNat_add, BitVec.toNat_ofNat]
  omega

theorem bits_add_one {c x : Count} (h : c.toNat < x.toNat) : (c + 1#32).toNat = c.toNat + 1 :=
  count_add_one h (by have := x.isLt; omega)

theorem State.wakeStep_cursor_toNat (s : State) :
    s.wakeStep.cursor.toNat = min s.profile.wakeupStepCount.toNat s.snap.toNat := by
  simp only [State.wakeStep_cursor, BitVec.le_def]
  split <;> omega

/-- The shift of a bit step, as a number (R151). -/
theorem shifted_code (c : Acc) (b : Bool) :
    ((c <<< 1) ||| (if b then 1#64 else 0#64)).toNat = (2 * c.toNat + (if b then 1 else 0)) % 2 ^ 64 := by
  have h1 : (c <<< 1) ||| (if b then 1#64 else 0#64) = (c <<< 1) + (if b then 1#64 else 0#64) := by
    refine (BitVec.add_eq_or_of_and_eq_zero _ _ ?_).symm
    cases b
    · simp
    · ext i hi
      simp only [BitVec.getElem_and, BitVec.getElem_shiftLeft, BitVec.getElem_zero, if_true, BitVec.getElem_one]
      by_cases h0 : i = 0 <;> simp [h0]
  rw [h1]
  cases b <;> simp [BitVec.toNat_add, BitVec.toNat_shiftLeft, Nat.shiftLeft_eq] <;> omega

/-! ## SmpRead -/

theorem State.smpRead_none {s : State} {i : Nat} (h : s.capacity.val ≤ i) : s.smpRead i = none := by
  simp [State.smpRead, h]

theorem State.smpRead_of_init {s : State} {i : Nat} (hi : i < s.capacity.val) (h : s.init = true) :
    s.smpRead i = some (SampleMem.read s.smp i, s) := by
  simp [State.smpRead, h, show ¬ s.capacity.val ≤ i by omega]

theorem State.smpRead_cases {s s' : State} {i : Nat} {x : Sample} (h : s.smpRead i = some (x, s')) :
    i < s.capacity.val ∧
      (s.init = true ∧ x = SampleMem.read s.smp i ∧ s' = s ∨
       s.init = false ∧ x = Config.freeSample s.draws i ∧ s' = { s with draws := s.draws + 1 }) := by
  unfold State.smpRead at h
  split at h
  · cases h
  · rename_i hc
    split at h <;> cases h
    · exact ⟨by omega, .inl ⟨‹_›, rfl, rfl⟩⟩
    · exact ⟨by omega, .inr ⟨by simpa using ‹¬ s.init = true›, rfl, rfl⟩⟩

/-! ## Edge -/

theorem State.edge_cases (s : State) (k : EdgeKind) (now : Time) :
    s.init = false ∧ s.edge k now = s.drawCapture ∨
    s.init = true ∧ s.capacity.val ≤ s.stepCount.toNat ∧ s.edge k now = s ∨
    s.init = true ∧ s.stepCount.toNat < s.capacity.val ∧ s.seeded = false ∧
      s.edge k now = s.noteWindow.seed now ∨
    s.init = true ∧ s.stepCount.toNat < s.capacity.val ∧ s.seeded = true ∧
      s.edge k now = s.noteWindow.commit k now := by
  unfold State.edge
  cases hi : s.init
  · simp
  · cases hf : s.full
    · rw [State.not_full_iff] at hf
      cases hs : s.seeded <;> simp [hf]
    · rw [State.full_iff] at hf
      simp [hf]

theorem exec_edge (s : State) (k : EdgeKind) (now : Time) :
    exec (match k with | .falling => .edgeF now | .rising => .edgeR now) s = .next (s.edge k now) := by
  cases k <;> rfl

/-! ## Finish -/

theorem State.finish_of_clean {s : State} (h : s.taint = false) : s.finish = s.finishClean := by
  simp [State.finish, h]

theorem State.finish_of_taint {s : State} (h : s.taint = true) : s.finish = s.finishTainted := by
  simp [State.finish, h]

theorem State.finishClean_eq_self (s : State) : s.finishClean = { s with dstate := s.terminalState } := rfl

theorem State.terminalState_terminal (s : State) :
    s.terminalState = .complete ∨ s.terminalState = .truncated ∨ s.terminalState = .error := by
  unfold State.terminalState
  split
  · simp
  · split <;> simp

theorem dstateOfTerminal_terminal (t : Terminal) :
    dstateOfTerminal t = .complete ∨ dstateOfTerminal t = .truncated ∨ dstateOfTerminal t = .error := by
  cases t <;> simp [dstateOfTerminal]

/-- A finishing step reaches a terminal state and writes nothing outside the decoder and the count of draws. -/
theorem State.finish_frame (s : State) :
    s.finish.lastEdge = s.lastEdge ∧ s.finish.seeded = s.seeded ∧ s.finish.smp = s.smp ∧
    s.finish.stepCount = s.stepCount ∧ s.finish.profile = s.profile ∧ s.finish.ploaded = s.ploaded ∧
    s.finish.snap = s.snap ∧ s.finish.init = s.init ∧ s.finish.taint = s.taint ∧
    s.finish.capacity = s.capacity ∧ s.finish.trace = s.trace ∧ s.finish.readData = s.readData ∧
    (s.finish.dstate = .complete ∨ s.finish.dstate = .truncated ∨ s.finish.dstate = .error) := by
  unfold State.finish
  split
  · simpa using dstateOfTerminal_terminal _
  · simpa using State.terminalState_terminal s

/-! ## DSTEP -/

/-- What a DSTEP that is not refused can do (R142): the wake-up step, one bit, one extra pair, or the finish. `n` is
the count of draws, which moves only while `INIT = 0`. -/
theorem execDstep_cases {s t : State} (h : execDstep s = .next t) :
    s.dstate = .awaitingWakeup ∧ t = s.wakeStep ∨
    (s.dstate = .decodingBits ∧ s.bits.toNat < s.profile.bitCount.toNat ∧ s.cursor.toNat + 2 ≤ s.snap.toNat ∧
      s.cursor.toNat + 1 < s.capacity.val ∧
      ∃ (n : Nat) (lo hi : Duration), (s.init = true → n = s.draws ∧ lo = (SampleMem.read s.smp s.cursor.toNat).duration ∧
          hi = (SampleMem.read s.smp (s.cursor.toNat + 1)).duration) ∧
        separatorIn s.profile lo hi = false ∧ t = ({ s with draws := n } : State).consumePair lo hi) ∨
    (s.dstate = .decodingBits ∧ s.profile.bitCount.toNat ≤ s.bits.toNat ∧
      s.cursor.toNat + 2 ≤ min s.snap.toNat s.profile.expectedStepCount.toNat ∧ t = s.skipPair) ∨
    (s.dstate = .decodingBits ∧ ∃ n, (s.init = true → n = s.draws) ∧ t = ({ s with draws := n } : State).finish) := by
  unfold execDstep at h
  cases hd : s.dstate <;> simp only [hd] at h
  · cases h
  · cases h; exact .inl ⟨rfl, rfl⟩
  · right
    split at h
    · rename_i hb
      rw [State.bitsWanted_iff] at hb
      unfold bitStep at h
      split at h
      · rename_i hp
        rw [State.pairLeft_iff] at hp
        split at h
        · cases h
        · rename_i lo s1 h1
          split at h
          · cases h
          · rename_i hi s2 h2
            cases h
            have hlow : s.lowIndex = s.cursor.toNat := rfl
            obtain ⟨-, c1⟩ := State.smpRead_cases h1
            obtain ⟨hcap, c2⟩ := State.smpRead_cases h2
            have key : ∃ n, s2 = { s with draws := n } ∧
                (s.init = true → n = s.draws ∧ lo = SampleMem.read s.smp s.cursor.toNat ∧
                  hi = SampleMem.read s.smp (s.cursor.toNat + 1)) ∧ s.cursor.toNat + 1 < s.capacity.val := by
              rcases c1 with ⟨i1, rfl, rfl⟩ | ⟨i1, rfl, rfl⟩
              · rcases c2 with ⟨i2, rfl, rfl⟩ | ⟨i2, rfl, rfl⟩
                · exact ⟨s2.draws, rfl, fun _ => ⟨rfl, rfl, rfl⟩, hcap⟩
                · exact absurd i1 (by simp [i2])
              · rcases c2 with ⟨i2, rfl, rfl⟩ | ⟨i2, rfl, rfl⟩
                · exact absurd i2 (by simp [i1])
                · exact ⟨s.draws + 1 + 1, rfl, fun hc => absurd hc (by simp [i1]), hcap⟩
            obtain ⟨n, rfl, hinit, hcap'⟩ := key
            cases hsep : separatorIn s.profile lo.duration hi.duration
            · exact .inl ⟨rfl, hb, hp, hcap', n, lo.duration, hi.duration,
                fun hc => ⟨(hinit hc).1, by rw [(hinit hc).2.1], by rw [(hinit hc).2.2]⟩, hsep,
                by simp [State.takePair, hsep, hd]⟩
            · exact .inr (.inr ⟨rfl, n, fun hc => (hinit hc).1, by simp [State.takePair, hsep, hd]⟩)
      · cases h
        exact .inr (.inr ⟨rfl, s.draws, fun _ => rfl, rfl⟩)
    · rename_i hb
      rw [State.bitsWanted_iff, Nat.not_lt] at hb
      unfold extraStep at h
      split at h
      · rename_i hx
        rw [State.extraPairLeft_iff] at hx
        cases h; exact .inr (.inl ⟨rfl, hb, hx, rfl⟩)
      · cases h
        exact .inr (.inr ⟨rfl, s.draws, fun _ => rfl, rfl⟩)
  · cases h
  · cases h
  · cases h

/-- A bit step on a pair inside the sample space of a reset buffer (R144 to R154). -/
theorem execDstep_bit {s : State} (hi : s.init = true) (hc : s.snap.toNat ≤ s.capacity.val)
    (hd : s.dstate = .decodingBits) (hb : s.bits.toNat < s.profile.bitCount.toNat)
    (hp : s.cursor.toNat + 2 ≤ s.snap.toNat) :
    execDstep s = .next (s.takePair (SampleMem.read s.smp s.cursor.toNat).duration
      (SampleMem.read s.smp (s.cursor.toNat + 1)).duration) := by
  have h1 : s.smpRead s.lowIndex = some (SampleMem.read s.smp s.cursor.toNat, s) :=
    State.smpRead_of_init (by simp only [State.lowIndex]; omega) hi
  have h2 : s.smpRead s.highIndex = some (SampleMem.read s.smp (s.cursor.toNat + 1), s) :=
    State.smpRead_of_init (by simp only [State.highIndex]; omega) hi
  simp [execDstep, hd, (s.bitsWanted_iff).2 hb, bitStep, (s.pairLeft_iff).2 hp, h1, h2]

theorem execDstep_noPair {s : State} (hd : s.dstate = .decodingBits) (hb : s.bits.toNat < s.profile.bitCount.toNat)
    (hp : s.snap.toNat < s.cursor.toNat + 2) : execDstep s = .next s.finish := by
  have hn : s.pairLeft = false := by simpa [State.pairLeft] using hp
  simp [execDstep, hd, (s.bitsWanted_iff).2 hb, bitStep, hn]

theorem execDstep_extra {s : State} (hd : s.dstate = .decodingBits) (hb : s.profile.bitCount.toNat ≤ s.bits.toNat) :
    execDstep s = .next (if s.extraPairLeft then s.skipPair else s.finish) := by
  have hn : s.bitsWanted = false := by simpa [State.bitsWanted] using hb
  cases hx : s.extraPairLeft <;> simp [execDstep, hd, hn, extraStep, hx]

/-! ## The other meanings, and the step -/

theorem execDstart_cases {s t : State} (h : execDstart s = .next t) :
    s.init = true ∧ s.ploaded = true ∧ s.busy = false ∧ s.stepCount ≠ 0#32 ∧ t = s.beginDecode := by
  unfold execDstart at h
  split at h
  · cases h
  · split at h
    · cases h
    · split at h
      · cases h
      · split at h
        · cases h
        · cases h
          simp_all

theorem execBclr_cases {s t : State} (h : execBclr s = .next t) : s.busy = false ∧ t = s.clearBuffer := by
  unfold execBclr at h
  split at h
  · cases h
  · cases h; exact ⟨by simpa using ‹¬ s.busy = true›, rfl⟩

theorem execPload_cases {s t : State} {p : Profile} (h : execPload p s = .next t) :
    s.busy = false ∧ t = s.loadProfile p := by
  unfold execPload at h
  split at h
  · cases h
  · cases h; exact ⟨by simpa using ‹¬ s.busy = true›, rfl⟩

/-- A read that is not refused writes the read data and the count of draws only. -/
theorem execRdreg_cases {s t : State} {r : BitVec 4} (h : execRdreg r s = .next t) :
    ∃ d n, t = { s with readData := some d, draws := n } := by
  unfold execRdreg at h
  split at h
  · cases h
  · split at h <;> cases h
    · exact ⟨_, _, rfl⟩
    · exact ⟨_, s.draws, rfl⟩

theorem execRdsmp_cases {s t : State} {idx : Count} (h : execRdsmp idx s = .next t) :
    ∃ d n, t = { s with readData := some d, draws := n } := by
  unfold execRdsmp at h
  split at h
  · cases h
  · rename_i x s' h'
    cases h
    obtain ⟨-, ⟨-, -, rfl⟩ | ⟨-, -, rfl⟩⟩ := State.smpRead_cases h'
    · exact ⟨_, s'.draws, rfl⟩
    · exact ⟨_, _, rfl⟩

theorem step_cases {s t : State} (h : step s = .next t) :
    s.trace = [] ∧ t = s ∨
    ∃ (p : Presented) (rest : List Presented) (i : Instr), s.trace = p :: rest ∧ receive p = .ok i ∧
      exec i { s with trace := rest } = .next t := by
  unfold step takeNext at h
  cases htr : s.trace with
  | nil => simp only [htr] at h; cases h; exact .inl ⟨rfl, rfl⟩
  | cons p rest =>
    simp only [htr] at h
    cases hr : receive p with
    | error r => simp only [hr] at h; cases h
    | ok i => simp only [hr] at h; exact .inr ⟨p, rest, i, rfl, hr, h⟩

end Sys2Proof.Machine
end

