-- ==== Sys2Proof/Laws/PerInstr.lean ====
section
/-! SUPPORT. One lemma per operation, for each family of LAWS.json. -/

namespace Sys2Proof.Laws.WordLength

/-- The operation word has the total bits R91 gives the format that R92 names for its opcode byte. -/
def Statement (i : Instr) : Prop :=
  ∃ o, opcodeOfByte (opcodeByte i) = some o ∧ (encode i).length * 8 = (opcodeFormat o).bits

theorem edgeF (now : Time) : Statement (.edgeF now) :=
  ⟨.edgeF, rfl, by simp [encode, payloadBytes, leBytes_length, opcodeFormat, Format.bits]⟩

theorem edgeR (now : Time) : Statement (.edgeR now) :=
  ⟨.edgeR, rfl, by simp [encode, payloadBytes, leBytes_length, opcodeFormat, Format.bits]⟩

theorem bclr : Statement .bclr := ⟨.bclr, by decide, by decide⟩

theorem pload (p : Profile) : Statement (.pload p) :=
  ⟨.pload, rfl, by simp [encode, payloadBytes, leBytes_length, opcodeFormat, Format.bits]⟩

theorem dstart : Statement .dstart := ⟨.dstart, by decide, by decide⟩

theorem dstep : Statement .dstep := ⟨.dstep, by decide, by decide⟩

theorem rdreg (r : BitVec 4) : Statement (.rdreg r) :=
  ⟨.rdreg r, by revert r; decide, by simp [encode, payloadBytes, opcodeFormat, Format.bits]⟩

theorem rdsmp (idx : Count) : Statement (.rdsmp idx) :=
  ⟨.rdsmp, by simp [opcodeOfByte, opcodeByte], by simp [encode, payloadBytes, leBytes_length, opcodeFormat, Format.bits]⟩

end Sys2Proof.Laws.WordLength
end

