-- ==== Sys2Proof/Tests/Slice0.lean ====
section
/-! SUPPORT. The model's own tests. Expected values are those of spec/95_test_vectors.md, named in each docstring;
then one witness for the hypotheses of each statement of Certificates/Slice0/Obligations.lean. -/

namespace Sys2Proof.Tests

open Sys2Proof.Machine

/-! ## Helpers -/

/-- The outcome is a next state with the property. -/
def nextIs (o : Host.Outcome State Fault Refusal) (p : State → Bool) : Bool :=
  match o with
  | .next t => p t
  | .fault _ => false
  | .refused _ => false

/-- The outcome is this refusal. -/
def refusedAs (o : Host.Outcome State Fault Refusal) (r : Refusal) : Bool :=
  match o with
  | .next _ => false
  | .fault _ => false
  | .refused r' => r' == r

/-- Profile T2 of 95_test_vectors.md. -/
def t2 : Profile :=
  { bitCount := 4#32, expectedStepCount := 12#32, wakeupStepCount := 2#32, zeroOneThreshold := 1000#64,
    noiseCeiling := 2500#64, separatorThreshold := 10000#64 }

/-- Profile T1 of 95_test_vectors.md. -/
def t1 : Profile := { t2 with bitCount := 32#32, expectedStepCount := 68#32 }

/-- "Fresh" T2 of 95_test_vectors.md: power-on, PLOAD, BCLR. -/
def fresh : State := { State.powerOn Config.resetCapacity with profile := t2, ploaded := true, init := true }

/-- Capacity 2, for the full buffer. -/
def two : Capacity := { val := 2, pos := by decide, fits := by decide }

/-- Samples low, high, low, ... with these durations, from index `i`. -/
def samples (i : Nat) (ds : List Duration) : SampleMem :=
  match ds with
  | [] => []
  | d :: rest => (i, { level := if i % 2 = 0 then .low else .high, duration := d }) :: samples (i + 1) rest

/-- Fresh T2 after a burst of these durations from time 0. -/
def captured (ds : List Duration) : State :=
  { fresh with smp := samples 0 ds, stepCount := BitVec.ofNat 32 ds.length, seeded := true,
               lastEdge := ds.foldl (· + ·) 0#64 }

/-- The bit phase, nothing decoded yet, on the pair that follows the wake-up pair. -/
def atPair (lo hi : Duration) : State :=
  { captured [4450#64, 4450#64, lo, hi, 550#64] with dstate := .decodingBits, snap := 5#32, cursor := 2#32 }

/-- `s` with one operation presented by an agent. -/
def given (s : State) (a : Agent) (word : List Byte) : State := { s with trace := [{ agent := a, word := word }] }

/-! ## WellFormed -/

/-- The one check of WellFormed: RDREG 7, 14 and 15 are ill-formed (R94). -/
theorem test_illFormed_rdreg :
    (Instr.rdreg 7#4).wellFormed = false ∧ (Instr.rdreg 14#4).wellFormed = false ∧
    (Instr.rdreg 15#4).wellFormed = false := by decide

/-- Its neighbours are well-formed. -/
theorem test_wellFormed_rdreg :
    (Instr.rdreg 6#4).wellFormed = true ∧ (Instr.rdreg 8#4).wellFormed = true ∧
    (Instr.rdreg 13#4).wellFormed = true := by decide

/-! ## Decoding: words written out from R91 and R92 -/

/-- V-X1. -/
theorem test_decode_edgeF :
    decode [0x00#8, 0x40#8, 0x42#8, 0x0F#8, 0x00#8, 0x00#8, 0x00#8, 0x00#8, 0x00#8] = .ok (.edgeF 1000000#64) := by
  decide

/-- V-X2. -/
theorem test_decode_edgeR :
    decode [0x01#8, 0xA2#8, 0x53#8, 0x0F#8, 0x00#8, 0x00#8, 0x00#8, 0x00#8, 0x00#8] = .ok (.edgeR 1004450#64) := by
  decide

/-- V-X4: the largest time. -/
theorem test_decode_edgeR_max :
    decode [0x01#8, 0xFF#8, 0xFF#8, 0xFF#8, 0xFF#8, 0xFF#8, 0xFF#8, 0xFF#8, 0xFF#8] =
      .ok (.edgeR 18446744073709551615#64) := by decide

/-- V-X5, V-X8, V-X9. -/
theorem test_decode_noOperand :
    decode [0x10#8] = .ok .bclr ∧ decode [0x30#8] = .ok .dstart ∧ decode [0x31#8] = .ok .dstep := by decide

/-- V-X7: profile T1. -/
theorem test_decode_pload :
    decode ([0x20#8, 0x20#8, 0x00#8, 0x00#8, 0x00#8, 0x44#8, 0x00#8, 0x00#8, 0x00#8, 0x02#8, 0x00#8, 0x00#8, 0x00#8] ++
        [0xE8#8, 0x03#8, 0x00#8, 0x00#8, 0x00#8, 0x00#8, 0x00#8, 0x00#8] ++
        [0xC4#8, 0x09#8, 0x00#8, 0x00#8, 0x00#8, 0x00#8, 0x00#8, 0x00#8] ++
        [0x10#8, 0x27#8, 0x00#8, 0x00#8, 0x00#8, 0x00#8, 0x00#8, 0x00#8]) = .ok (.pload t1) := by decide

/-- V-X10, V-X11: the register numbers of R95. -/
theorem test_decode_rdreg :
    decode [0x40#8] = .ok (.rdreg (numberOfReg .stepCount)) ∧ decode [0x41#8] = .ok (.rdreg (numberOfReg .dstate)) ∧
    decode [0x42#8] = .ok (.rdreg (numberOfReg .bits)) ∧ decode [0x43#8] = .ok (.rdreg (numberOfReg .error)) ∧
    decode [0x44#8] = .ok (.rdreg (numberOfReg .code)) ∧ decode [0x45#8] = .ok (.rdreg (numberOfReg .cursor)) ∧
    decode [0x46#8] = .ok (.rdreg (numberOfReg .snap)) ∧ decode [0x48#8] = .ok (.rdreg (numberOfReg .bitCount)) ∧
    decode [0x4D#8] = .ok (.rdreg (numberOfReg .separatorThreshold)) := by decide

/-- V-X12. -/
theorem test_decode_rdsmp :
    decode [0x50#8, 0x03#8, 0x00#8, 0x00#8, 0x00#8] = .ok (.rdsmp 3#32) ∧
    decode [0x50#8, 0x7F#8, 0x00#8, 0x00#8, 0x00#8] = .ok (.rdsmp 127#32) := by decide

/-- V-X13, V-X14: reserved words; and words of a wrong length (R90, log 7). -/
theorem test_decode_refused :
    decode [0x47#8] = .error (.reservedRegister 7#4) ∧ decode [0x4F#8] = .error (.reservedRegister 15#4) ∧
    decode [0x02#8] = .error (.reservedOpcode 0x02#8) ∧ decode [0x51#8] = .error (.reservedOpcode 0x51#8) ∧
    decode [0xFF#8] = .error (.reservedOpcode 0xFF#8) ∧ decode [0x50#8, 0x03#8] = .error .shortWord ∧
    decode [0x10#8, 0x00#8] = .error .longWord ∧ decode [] = .error .emptyWord := by decide

/-- The table's numbering: V-X1, V-X2, V-X6 and V-X12 as one number each. -/
theorem test_tableWord :
    decodeTableWord 72 0x00000000000F424000 = some (.edgeF 1000000#64) ∧
    decodeTableWord 72 0x00000000000F53A201 = some (.edgeR 1004450#64) ∧
    decodeTableWord 296 0x000000000000271000000000000009C400000000000003E8000000020000000C0000000420 =
      some (.pload t2) ∧
    decodeTableWord 40 0x0000000350 = some (.rdsmp 3#32) ∧ decodeTableWord 8 0x47 = none := by decide

/-- A table word runs as the first operation after power-on. -/
theorem test_withFetchWord :
    nextIs (step (State.reset.withFetchWord 72 0x00000000000F424000)) (fun t => t.trace == []) = true ∧
    nextIs (step (State.reset.withFetchWord 8 0x10)) (fun t => t.init && t.trace == []) = true ∧
    nextIs (step (State.reset.withFetchWord 8 0x41)) (fun t => t.readData == some (.reg 0#64)) = true ∧
    refusedAs (step (State.reset.withFetchWord 8 0x30)) .bufferNeverReset = true ∧
    refusedAs (step (State.reset.withFetchWord 8 0x31)) .decoderNotBusy = true ∧
    refusedAs (step (State.reset.withFetchWord 8 0x47)) .reservedRegister = true ∧
    refusedAs (step (State.reset.withFetchWord 40 0x0000008050)) .indexOutOfRange = true := by decide

/-! ## Data encodings and trace text -/

/-- V-X15, V-X16. -/
theorem test_sampleWord :
    sampleWord { level := .high, duration := 4450#64 } = 0x10000000000001162#65 ∧
    sampleWord { level := .low, duration := 550#64 } = 0x00000000000000226#65 := by decide

/-- Lines of the programs of 95_test_vectors.md, in the syntax of R101. -/
theorem test_assemble :
    assemble ["PLOAD bc=32 exp=68 wk=2 z1=1000 nc=2500 sep=10000", "EDGE.R  @0xF_53A2   ; a comment", "",
      "RDREG CODE   -> 0xB0725601", "RDSMP 3 -> (1, 1675)"] =
      some [.pload t1, .edgeR 1004450#64, .rdreg 4#4, .rdsmp 3#32] := by decide

/-- A line that is no operation, a number too large for its field, and underscores that separate no two digits
(log 18). -/
theorem test_assemble_refused :
    assemble ["DSTOP"] = none ∧ assemble ["RDREG 16"] = none ∧
    (["RDSMP _", "RDSMP 0x_", "RDSMP _1", "RDSMP 1_", "RDSMP 0x_1", "RDSMP 1__0"].all fun line =>
      assemble [line] == none) = true ∧
    assemble ["RDSMP 1_0"] = some [.rdsmp 10#32] := by decide

/-! ## One operation at a time -/

/-- V-E1 and V-E3: a first edge seeds; a falling edge closes a high sample. -/
theorem test_edgeF :
    nextIs (exec (.edgeF 1000000#64) fresh)
      (fun t => t.seeded && t.lastEdge == 1000000#64 && t.stepCount == 0#32 && t.smp == []) = true ∧
    nextIs (exec (.edgeF 8900#64) (captured [4450#64]))
      (fun t => t.entry 1 == { level := .high, duration := 4450#64 } && t.stepCount == 2#32) = true := by decide

/-- V-E14: an edge inside a decode window. -/
theorem test_edgeF_taints :
    nextIs (exec (.edgeF 15000#64) { captured [4450#64, 4450#64, 550#64, 1675#64, 550#64] with
        dstate := .awaitingWakeup, snap := 5#32 })
      (fun t => t.entry 5 == { level := .high, duration := 3325#64 } && t.stepCount == 6#32 && t.taint &&
        t.snap == 5#32 && t.lastEdge == 15000#64) = true := by decide

/-- V-E2, V-E5, V-E6, V-E7: a rising edge closes a low sample, whatever came before; the clock may go back or wrap. -/
theorem test_edgeR :
    nextIs (exec (.edgeR 1004450#64) { fresh with seeded := true, lastEdge := 1000000#64 })
      (fun t => t.entry 0 == { level := .low, duration := 4450#64 } && t.stepCount == 1#32) = true ∧
    nextIs (exec (.edgeR 400#64) { fresh with seeded := true, lastEdge := 500#64 })
      (fun t => t.entry 0 == { level := .low, duration := 18446744073709551516#64 } && t.lastEdge == 400#64) = true ∧
    nextIs (exec (.edgeR 150#64) { fresh with seeded := true, lastEdge := 18446744073709551516#64 })
      (fun t => t.entry 0 == { level := .low, duration := 250#64 }) = true := by decide

/-- V-E9: an edge on a full buffer changes nothing, `LASTEDGE` included. -/
theorem test_edgeR_full :
    nextIs (exec (.edgeR 1000#64) { captured [10#64, 20#64] with capacity := two })
      (fun t => t == { captured [10#64, 20#64] with capacity := two }) = true := by decide

/-- V-H1: BCLR keeps a finished result. -/
theorem test_bclr :
    nextIs (exec .bclr { captured [4450#64, 4450#64] with
        dstate := .complete, code := 0xB#64, bits := 4#32, cursor := 10#32, snap := 11#32 })
      (fun t => t.stepCount == 0#32 && !t.seeded && t.smp == [] && t.init && t.dstate == .complete &&
        t.code == 0xB#64 && t.bits == 4#32 && t.cursor == 10#32 && t.snap == 11#32) = true := by decide

/-- V-D44. -/
theorem test_bclr_busy : refusedAs (exec .bclr (atPair 550#64 1675#64)) .decoderBusy = true := by decide

/-- V-H6, V-H7: PLOAD at power-on, and after a decode. -/
theorem test_pload :
    nextIs (exec (.pload t1) State.reset) (fun t => t.profile == t1 && t.ploaded && !t.init) = true ∧
    nextIs (exec (.pload t1) { captured [10#64] with dstate := .complete, code := 0xB#64 })
      (fun t => t.code == 0xB#64 && t.profile.bitCount == 32#32 && t.stepCount == 1#32) = true := by decide

/-- V-D44. -/
theorem test_pload_busy : refusedAs (exec (.pload t1) (atPair 550#64 1675#64)) .decoderBusy = true := by decide

/-- V-D40 and V-D52: DSTART from IDLE, and from a terminal state. -/
theorem test_dstart :
    nextIs (exec .dstart { captured [4450#64, 4450#64, 550#64] with
        dstate := .error, code := 9#64, bits := 4#32, error := true, cursor := 10#32, taint := true })
      (fun t => t.snap == 3#32 && t.cursor == 0#32 && t.code == 0#64 && t.bits == 0#32 && !t.error && !t.taint &&
        t.dstate == .awaitingWakeup) = true := by decide

/-- V-D43, V-D46, V-D47, V-D49. -/
theorem test_dstart_refused :
    refusedAs (exec .dstart (atPair 550#64 1675#64)) .decoderBusy = true ∧
    refusedAs (exec .dstart { fresh with init := false }) .bufferNeverReset = true ∧
    refusedAs (exec .dstart { captured [10#64, 20#64] with ploaded := false }) .noProfile = true ∧
    refusedAs (exec .dstart { fresh with seeded := true }) .emptyBuffer = true := by decide

/-- What a bit step on a pair leaves: `CODE`, `BITS`, `ERROR`, `CURSOR` and whether the decoder is still busy. -/
def pairGives (lo hi : Duration) (code : Acc) (bits : Count) (error : Bool) (cursor : Count) (busy : Bool) : Bool :=
  nextIs (exec .dstep (atPair lo hi)) fun t =>
    t.code == code && t.bits == bits && t.error == error && t.cursor == cursor && t.busy == busy

/-- The boundaries of V-D2 to V-D12 and E6: `z1`, `nc` and `sep`, on both halves. -/
theorem test_dstep_pair :
    pairGives 550#64 1000#64 0#64 1#32 false 4#32 true = true ∧
    pairGives 550#64 1001#64 1#64 1#32 false 4#32 true = true ∧
    pairGives 550#64 2499#64 1#64 1#32 false 4#32 true = true ∧
    pairGives 550#64 2500#64 0#64 1#32 true 4#32 true = true ∧
    pairGives 550#64 10000#64 0#64 1#32 true 4#32 true = true ∧
    pairGives 550#64 10001#64 0#64 0#32 false 2#32 false = true ∧
    pairGives 1000#64 1675#64 1#64 1#32 false 4#32 true = true ∧
    pairGives 1001#64 1675#64 1#64 1#32 true 4#32 true = true ∧
    pairGives 10000#64 550#64 0#64 1#32 true 4#32 true = true ∧
    pairGives 10001#64 550#64 0#64 0#32 false 2#32 false = true := by decide

/-- V-D15, V-D13, V-D19, V-D28, V-D50: the wake-up step on too few samples, the end of the buffer on an odd sample,
an extra pair within `exp`, a finish with the flag set, and no DSTEP in IDLE. -/
theorem test_dstep_phases :
    nextIs (exec .dstep { captured [4450#64] with dstate := .awaitingWakeup, snap := 1#32 })
      (fun t => t.cursor == 1#32 && t.dstate == .decodingBits) = true ∧
    nextIs (exec .dstep { atPair 550#64 1675#64 with cursor := 4#32, bits := 1#32, code := 1#64 })
      (fun t => t.cursor == 4#32 && t.bits == 1#32 && t.dstate == .truncated) = true ∧
    nextIs (exec .dstep { fresh with dstate := .decodingBits, snap := 15#32, cursor := 10#32, bits := 4#32 })
      (fun t => t.cursor == 12#32 && t.dstate == .decodingBits) = true ∧
    nextIs (exec .dstep { fresh with
        dstate := .decodingBits, snap := 15#32, cursor := 12#32, bits := 4#32, error := true })
      (fun t => t.cursor == 12#32 && t.dstate == .error) = true ∧
    refusedAs (exec .dstep fresh) .decoderNotBusy = true := by decide

/-- V-H14 and V-H6: registers after a decode, and of the profile. -/
theorem test_rdreg :
    nextIs (exec (.rdreg 1#4) { fresh with dstate := .truncated }) (fun t => t.readData == some (.reg 4#64)) = true ∧
    nextIs (exec (.rdreg 4#4) { fresh with dstate := .complete, code := 0xB0725601#64 })
      (fun t => t.readData == some (.reg 0xB0725601#64)) = true ∧
    nextIs (exec (.rdreg 3#4) { fresh with dstate := .error, error := true })
      (fun t => t.readData == some (.reg 1#64)) = true ∧
    nextIs (exec (.rdreg 11#4) fresh) (fun t => t.readData == some (.reg 1000#64)) = true := by decide

/-- V-H12, and V-H11: a read before any decode is a draw and changes nothing else. -/
theorem test_rdreg_reserved_and_unspecified :
    refusedAs (exec (.rdreg 7#4) fresh) .reservedRegister = true ∧
    exec (.rdreg 4#4) fresh = .next { fresh with readData := some (.reg (Config.freeWord 0)), draws := 1 } :=
  ⟨by decide, rfl⟩

/-- V-H13. -/
theorem test_rdsmp :
    nextIs (exec (.rdsmp 1#32) (captured [4450#64, 4451#64]))
      (fun t => t.readData == some (.sample 0x10000000000001163#65)) = true ∧
    nextIs (exec (.rdsmp 2#32) (captured [4450#64, 4450#64])) (fun t => t.readData == some (.sample 0#65)) = true ∧
    nextIs (exec (.rdsmp 127#32) (captured [4450#64])) (fun t => t.readData == some (.sample 0#65)) = true ∧
    refusedAs (exec (.rdsmp 128#32) (captured [4450#64])) .indexOutOfRange = true := by decide

/-- R103: the capture owner may not issue an edge, the interrupt context may issue nothing else. -/
theorem test_wrongAgent :
    refusedAs (step (given fresh .captureOwner (encode (.edgeF 5#64)))) .wrongAgent = true ∧
    refusedAs (step (given fresh .edgeCapture (encode .bclr))) .wrongAgent = true ∧
    refusedAs (step (given fresh .collaborator (encode .dstart))) .wrongAgent = true ∧
    nextIs (step (given fresh .collaborator (encode (.rdreg 0#4)))) (fun t => t.readData == some (.reg 0#64)) = true :=
  by decide

/-! ## Witnesses: for each statement with hypotheses, a state and operands that meet them -/

/-- Reading at or above the count of a captured burst. -/
theorem captured_tail (ds : List Duration) (n : Nat) (h : SampleMem.below n (samples 0 ds) = true) :
    ∀ i, n ≤ i → (captured ds).entry i = Sample.cleared := fun _ hi => SampleMem.read_of_below h hi

/-- The burst of V-D15 and V-D1, which the witnesses use: one sample, and a whole frame. -/
def oneSample : State := captured [4450#64]

def wholeFrame : State :=
  captured [4450#64, 4450#64, 550#64, 1675#64, 550#64, 550#64, 550#64, 1675#64, 550#64, 1675#64, 550#64]

theorem oneSample_inv : oneSample.Inv where
  memCanonical := by decide
  memBelow := by decide
  countBounded := by decide
  tailCleared := fun _ => captured_tail _ 1 (by decide)
  ready := by decide
  snapBounded := by decide
  snapCommitted := by decide
  cursorBounded := by decide
  bitsBounded := by decide
  codeBounded := by decide
  waking := by decide
  pairing := fun h => absurd h (by decide)

theorem wholeFrame_inv : wholeFrame.Inv where
  memCanonical := by decide
  memBelow := by decide
  countBounded := by decide
  tailCleared := fun _ => captured_tail _ 11 (by decide)
  ready := by decide
  snapBounded := by decide
  snapCommitted := by decide
  cursorBounded := by decide
  bitsBounded := by decide
  codeBounded := by decide
  waking := by decide
  pairing := fun h => absurd h (by decide)

theorem fresh_inv : fresh.Inv where
  memCanonical := by decide
  memBelow := by decide
  countBounded := by decide
  tailCleared := fun _ _ _ => rfl
  ready := by decide
  snapBounded := by decide
  snapCommitted := by decide
  cursorBounded := by decide
  bitsBounded := by decide
  codeBounded := by decide
  waking := by decide
  pairing := fun h => absurd h (by decide)

/-- A busy state that meets the invariant: the bit phase, on its first pair. -/
theorem atPair_inv : (atPair 550#64 1675#64).Inv where
  memCanonical := by decide
  memBelow := by decide
  countBounded := by decide
  tailCleared := fun _ => captured_tail _ 5 (by decide)
  ready := by decide
  snapBounded := by decide
  snapCommitted := by decide
  cursorBounded := by decide
  bitsBounded := by decide
  codeBounded := by decide
  waking := by decide
  pairing := fun _ => ⟨0, by decide⟩

/-- V-D1, finished: `COMPLETE` with four bits read. -/
def finished : State :=
  { wholeFrame with dstate := .complete, snap := 11#32, cursor := 10#32, bits := 4#32, code := 0xB#64 }

theorem finished_invR40 : finished.InvR40 where
  memCanonical := by decide
  memBelow := by decide
  countBounded := by decide
  tailCleared := fun _ => captured_tail _ 11 (by decide)
  ready := by decide
  snapBounded := by decide
  snapCommitted := by decide
  cursorBounded := by decide
  bitsBounded := by decide
  codeBounded := by decide
  waking := by decide
  pairing := fun h => absurd h (by decide)
  resultBits := by decide
  resultPairing := fun _ _ => ⟨4, by decide⟩

/-- Why R40 (iv) needs a condition (log 14): by R182 a PLOAD of a smaller `bitCount` is accepted after the decode, and
the result keeps its four bits. -/
theorem test_pload_breaks_r40 :
    ∃ t, exec (.pload { t2 with bitCount := 2#32 }) finished = .next t ∧ ¬ t.InvR40 :=
  ⟨_, rfl, fun h => absurd (h.resultBits (by decide) (by decide)) (by decide)⟩

theorem witness_DecodeOfEncodeIsTheOperation :
    (Instr.rdreg 13#4).wellFormed = true ∧ (Instr.rdsmp 0xFFFFFFFF#32).wellFormed = true := by decide

theorem witness_EncodeOfDecodeIsTheWord : decode [0x4D#8] = .ok (.rdreg 13#4) := by decide

/-- The two ends of each range of R94, and the reserved registers. -/
theorem witness_ReservedEncodingsAreRefused :
    (given fresh .captureOwner [0x02#8, 0xAA#8]).trace = { agent := .captureOwner, word := 0x02#8 :: [0xAA#8] } :: [] ∧
    ([0x02#8, 0x0F#8, 0x11#8, 0x1F#8, 0x21#8, 0x2F#8, 0x32#8, 0x3F#8, 0x51#8, 0xFF#8].all fun op =>
      refusedAs (step (given fresh .captureOwner [op, 0xAA#8])) .reservedOpcode) = true ∧
    ([0x47#8, 0x4E#8, 0x4F#8].all fun op =>
      refusedAs (step (given fresh .captureOwner [op])) .reservedRegister) = true := by decide

theorem witness_OpcodeByteFixesTheLength :
    decode (0x50#8 :: [0x03#8, 0x00#8, 0x00#8, 0x00#8]) = .ok (.rdsmp 3#32) ∧
    decode (0x50#8 :: [0x7F#8, 0x00#8, 0x00#8, 0x00#8]) = .ok (.rdsmp 127#32) := by decide

theorem witness_StepRunsThePresentedOperation :
    (given fresh .collaborator [0x40#8]).trace = { agent := .collaborator, word := [0x40#8] } :: [] ∧
    decode [0x40#8] = .ok (.rdreg 0#4) ∧ mayIssue .collaborator (.rdreg 0#4) = true := by decide

theorem witness_OnlyTheNamedAgentMayIssue :
    (given fresh .edgeCapture (encode (.edgeF 7#64))).trace = { agent := .edgeCapture, word := encode (.edgeF 7#64) } :: [] ∧
    (given fresh .protocolDecoder (encode .dstep)).trace = { agent := .protocolDecoder, word := encode .dstep } :: [] ∧
    (given fresh .captureOwner (encode (.pload t1))).trace =
      { agent := .captureOwner, word := encode (.pload t1) } :: [] ∧
    (given fresh .collaborator (encode (.rdsmp 0#32))).trace =
      { agent := .collaborator, word := encode (.rdsmp 0#32) } :: [] ∧
    (Instr.edgeF 7#64).wellFormed = true ∧ Instr.dstep.wellFormed = true ∧ (Instr.pload t1).wellFormed = true ∧
    (Instr.rdsmp 0#32).wellFormed = true ∧ (atPair 1#64 1#64).busy = true ∧ fresh.busy = false ∧
    contextOf .edgeCapture = .interrupt ∧ contextOf .collaborator = .cooperative := by decide

/-- One state for each clause: before the first BCLR, full, unseeded with one place left, seeded with one place left. -/
theorem witness_EdgeFollowsItsProcedure :
    (SampleMem.wf State.reset.smp = true ∧ State.reset.init = false) ∧
    (let s := { captured [10#64, 20#64] with capacity := two }
     SampleMem.wf s.smp = true ∧ s.init = true ∧ s.stepCount.toNat = s.capacity.val) ∧
    (SampleMem.wf fresh.smp = true ∧ fresh.init = true ∧ fresh.stepCount.toNat < fresh.capacity.val ∧
      fresh.seeded = false) ∧
    (let s := { captured [10#64] with capacity := two }
     SampleMem.wf s.smp = true ∧ s.init = true ∧ s.stepCount.toNat < s.capacity.val ∧ s.seeded = true) := by decide

/-- A later time, an earlier one, and the same one. -/
theorem witness_DurationIsTheTimeDifference :
    SampleMem.wf oneSample.smp = true ∧ oneSample.init = true ∧
    oneSample.stepCount.toNat < oneSample.capacity.val ∧ oneSample.seeded = true ∧
    oneSample.lastEdge.toNat ≤ (4451#64 : Time).toNat ∧ (4449#64 : Time).toNat < oneSample.lastEdge.toNat ∧
    (4450#64 : Time) = oneSample.lastEdge := by decide

theorem witness_LevelIsTheOneThatEnded :
    SampleMem.wf oneSample.smp = true ∧ oneSample.init = true ∧ oneSample.seeded = true ∧
    oneSample.stepCount.toNat + 1 < oneSample.capacity.val := by decide

/-- A fresh buffer of one place, and more edges than it holds. -/
theorem witness_EdgesFillTheBuffer :
    SampleMem.wf fresh.smp = true ∧ fresh.init = true ∧ fresh.stepCount = 0#32 ∧ fresh.seeded = false ∧
    ([(.falling, 0#64), (.rising, 10#64), (.falling, 30#64)] : List (EdgeKind × Time)) ≠ [] := by decide

theorem witness_BurstCommitsItsDurations :
    SampleMem.wf fresh.smp = true ∧ fresh.init = true ∧ fresh.stepCount = 0#32 ∧ fresh.seeded = false := by decide

/-- Two states that differ in the profile, in the result and in `DSTATE`. -/
theorem witness_InterruptContextReadsCaptureOnly :
    SameCapture fresh { fresh with profile := t1, dstate := .complete, code := 5#64 } ∧
    ({ fresh with profile := t1, dstate := .complete, code := 5#64 } : State).capacity = fresh.capacity ∧
    fresh.init = true := ⟨⟨rfl, rfl, rfl, rfl, rfl⟩, rfl, rfl⟩

/-- One state for each of the four refusals and for the acceptance. -/
theorem witness_DstartFollowsItsProcedure :
    State.reset.init = false ∧
    (let s := { fresh with ploaded := false }; s.init = true ∧ s.ploaded = false) ∧
    (let s := atPair 1#64 1#64; s.init = true ∧ s.ploaded = true ∧ s.dstate = .decodingBits) ∧
    (fresh.init = true ∧ fresh.ploaded = true ∧ fresh.dstate ≠ .awaitingWakeup ∧ fresh.dstate ≠ .decodingBits ∧
      fresh.stepCount = 0#32) ∧
    (oneSample.init = true ∧ oneSample.ploaded = true ∧ oneSample.dstate ≠ .awaitingWakeup ∧
      oneSample.dstate ≠ .decodingBits ∧ oneSample.stepCount ≠ 0#32) := by decide

/-- `SNAP` equal to `P.wakeupStepCount`, the boundary of the clause on too few samples. -/
theorem witness_WakeStepPassesTheMarker :
    let s := { captured [4450#64, 4450#64] with dstate := .awaitingWakeup, snap := 2#32 }
    s.dstate = .awaitingWakeup ∧ s.snap.toNat ≤ s.profile.wakeupStepCount.toNat ∧ s.taint = false ∧ s.Inv :=
  ⟨by decide, by decide, by decide, by decide, by decide, by decide, fun _ => captured_tail _ 2 (by decide), by decide,
    by decide, by decide, by decide, by decide, by decide, by decide, fun h => absurd h (by decide)⟩

/-- One sample short of a pair. -/
theorem witness_BitStepWithoutAPairFinishes :
    let s := { atPair 550#64 1675#64 with cursor := 4#32 }
    s.dstate = .decodingBits ∧ s.bits.toNat < s.profile.bitCount.toNat ∧ s.snap.toNat < s.cursor.toNat + 2 ∧
    s.taint = false := by decide

/-- Just above the separator threshold, and equal to it. -/
theorem witness_SeparatorStopsTheBitPhase :
    (let s := atPair 10001#64 550#64
     s.init = true ∧ s.snap.toNat ≤ s.capacity.val ∧ s.dstate = .decodingBits ∧
     s.bits.toNat < s.profile.bitCount.toNat ∧ s.cursor.toNat + 2 ≤ s.snap.toNat ∧ s.taint = false ∧
     s.profile.separatorThreshold < s.durations s.cursor.toNat) ∧
    (let s := atPair 10000#64 10000#64
     s.init = true ∧ s.snap.toNat ≤ s.capacity.val ∧ s.dstate = .decodingBits ∧
     s.bits.toNat < s.profile.bitCount.toNat ∧ s.cursor.toNat + 2 ≤ s.snap.toNat ∧ s.taint = false ∧
     s.durations s.cursor.toNat ≤ s.profile.separatorThreshold ∧
     s.durations (s.cursor.toNat + 1) ≤ s.profile.separatorThreshold) := by decide

/-- The hypotheses of HighHalfGivesTheBit and SoftAnomaliesSetErrorOnly. -/
def bitStepHypotheses (s : State) : Bool :=
  decide (s.init = true ∧ s.snap.toNat ≤ s.capacity.val ∧ s.dstate = .decodingBits ∧
    s.bits.toNat < s.profile.bitCount.toNat ∧ s.cursor.toNat + 2 ≤ s.snap.toNat ∧
    s.durations s.cursor.toNat ≤ s.profile.separatorThreshold ∧
    s.durations (s.cursor.toNat + 1) ≤ s.profile.separatorThreshold)

theorem witness_HighHalfGivesTheBit :
    bitStepHypotheses (atPair 550#64 1675#64) = true ∧ (atPair 550#64 1675#64).Inv ∧
    (atPair 550#64 1675#64).profile.bitCount.toNat ≤ 64 := ⟨by decide, atPair_inv, by decide⟩

/-- The high half at the threshold, one above it, one below the ceiling, and at it. -/
theorem witness_SoftAnomaliesSetErrorOnly :
    bitStepHypotheses (atPair 1001#64 1000#64) = true ∧ bitStepHypotheses (atPair 550#64 1001#64) = true ∧
    bitStepHypotheses (atPair 550#64 2499#64) = true ∧ bitStepHypotheses (atPair 550#64 2500#64) = true := by decide

/-- V-D19: one extra pair fits below `exp`, the next does not. -/
theorem witness_ExtraPairsArePassedUnread :
    (let s := { fresh with dstate := .decodingBits, snap := 15#32, cursor := 10#32, bits := 4#32 }
     s.dstate = .decodingBits ∧ s.profile.bitCount.toNat ≤ s.bits.toNat ∧
     s.cursor.toNat + 2 ≤ min s.snap.toNat s.profile.expectedStepCount.toNat) ∧
    (let s := { fresh with dstate := .decodingBits, snap := 15#32, cursor := 11#32, bits := 4#32 }
     s.dstate = .decodingBits ∧ s.profile.bitCount.toNat ≤ s.bits.toNat ∧
     min s.snap.toNat s.profile.expectedStepCount.toNat < s.cursor.toNat + 2 ∧ s.taint = false) := by decide

/-- Each of the three places that call `Finish()`. -/
theorem witness_FinishChoosesTheTerminalState :
    (let s := { atPair 550#64 1675#64 with cursor := 4#32 }
     s.init = true ∧ s.snap.toNat ≤ s.capacity.val ∧ s.dstate = .decodingBits ∧
     s.bits.toNat < s.profile.bitCount.toNat ∧ s.snap.toNat < s.cursor.toNat + 2) ∧
    (let s := { atPair 550#64 10001#64 with error := true }
     s.init = true ∧ s.snap.toNat ≤ s.capacity.val ∧ s.dstate = .decodingBits ∧
     s.bits.toNat < s.profile.bitCount.toNat ∧ s.cursor.toNat + 2 ≤ s.snap.toNat ∧
     s.profile.separatorThreshold < s.durations (s.cursor.toNat + 1)) ∧
    (let s := { atPair 550#64 1675#64 with bits := 4#32, cursor := 4#32 }
     s.init = true ∧ s.snap.toNat ≤ s.capacity.val ∧ s.dstate = .decodingBits ∧
     s.profile.bitCount.toNat ≤ s.bits.toNat ∧
     min s.snap.toNat s.profile.expectedStepCount.toNat < s.cursor.toNat + 2) := by decide

theorem witness_DstepAdvancesOrFinishes :
    fresh.dstate = .idle ∧ ∃ t, exec .dstep (atPair 550#64 1675#64) = .next t := ⟨rfl, _, rfl⟩

theorem witness_NoDstepIsRefusedWhileBusy :
    (atPair 550#64 1675#64).Inv ∧ (atPair 550#64 1675#64).busy = true := ⟨atPair_inv, rfl⟩

theorem witness_DecodeEndsWithinItsBound :
    wholeFrame.Inv ∧ ∃ s1, exec .dstart wholeFrame = .next s1 := ⟨wholeFrame_inv, _, rfl⟩

/-- V-D15: DSTART and two DSTEPs on one sample. -/
theorem oneSample_run : ∃ s1 k t, exec .dstart oneSample = .next s1 ∧ QuietRun s1 k t ∧ t.terminal = true :=
  ⟨_, _, _, rfl, .op (i := .dstep) (.op (i := .dstep) .refl rfl rfl) rfl rfl, by decide⟩

theorem witness_DecodeComputesThePureFunction :
    oneSample.Inv ∧ ∃ s1 k t, exec .dstart oneSample = .next s1 ∧ QuietRun s1 k t ∧ t.terminal = true :=
  ⟨oneSample_inv, oneSample_run⟩

theorem witness_DecodingTwiceGivesTheSameResult :
    oneSample.Inv ∧ ∃ s1 k t t1 k' u, exec .dstart oneSample = .next s1 ∧ QuietRun s1 k t ∧ t.terminal = true ∧
      exec .dstart t = .next t1 ∧ QuietRun t1 k' u ∧ u.terminal = true :=
  ⟨oneSample_inv, _, _, _, _, _, _, rfl, .op (i := .dstep) (.op (i := .dstep) .refl rfl rfl) rfl rfl, by decide, rfl,
    .op (i := .dstep) (.op (i := .dstep) .refl rfl rfl) rfl rfl, by decide⟩

/-- A run into the bit phase, with bits already extracted. -/
theorem witness_CodeIsMostSignificantBitFirst :
    wholeFrame.Inv ∧ ∃ s1 n t, exec .dstart wholeFrame = .next s1 ∧ QuietRun s1 n t ∧ t.bits = 2#32 :=
  ⟨wholeFrame_inv, _, _, _, rfl,
    .op (i := .dstep) (.op (i := .dstep) (.op (i := .dstep) .refl rfl rfl) rfl rfl) rfl rfl, by decide⟩

/-- Both families: frames `0000` (high halves equal to the threshold) and `1111` (one below the ceiling). -/
def zeros : State :=
  captured [4450#64, 4450#64, 1000#64, 1000#64, 1000#64, 1000#64, 1000#64, 1000#64, 1000#64, 1000#64]

def ones : State :=
  captured [4450#64, 4450#64, 1000#64, 2499#64, 1000#64, 2499#64, 1000#64, 2499#64, 1000#64, 2499#64]

theorem zeros_inv : zeros.Inv where
  memCanonical := by decide
  memBelow := by decide
  countBounded := by decide
  tailCleared := fun _ => captured_tail _ 10 (by decide)
  ready := by decide
  snapBounded := by decide
  snapCommitted := by decide
  cursorBounded := by decide
  bitsBounded := by decide
  codeBounded := by decide
  waking := by decide
  pairing := fun h => absurd h (by decide)

theorem ones_inv : ones.Inv where
  memCanonical := by decide
  memBelow := by decide
  countBounded := by decide
  tailCleared := fun _ => captured_tail _ 10 (by decide)
  ready := by decide
  snapBounded := by decide
  snapCommitted := by decide
  cursorBounded := by decide
  bitsBounded := by decide
  codeBounded := by decide
  waking := by decide
  pairing := fun h => absurd h (by decide)

theorem witness_UniformBurstsDecodeAsStated :
    (zeros.Inv ∧ nextIs (decodeCall zeros) (fun t => t.code == 0#64 && t.dstate == .complete) = true ∧
      ∀ j, j < 4 → zeros.durations (2 + 2 * j) = zeros.profile.zeroOneThreshold ∧
        zeros.durations (2 + 2 * j + 1) = zeros.profile.zeroOneThreshold) ∧
    (ones.Inv ∧ nextIs (decodeCall ones) (fun t => t.code == 0xF#64 && t.dstate == .complete) = true ∧
      (∀ j, j < 4 → ones.durations (2 + 2 * j) = ones.profile.zeroOneThreshold ∧
        ones.durations (2 + 2 * j + 1) + 1#64 = ones.profile.noiseCeiling) ∧
      2 + 2 * ones.profile.bitCount.toNat ≤ ones.stepCount.toNat ∧ ones.profile.bitCount.toNat ≤ 64) :=
  ⟨⟨zeros_inv, by decide, by decide⟩, ones_inv, by decide, by decide, by decide, by decide⟩

/-- The same durations with every level turned to low. -/
theorem witness_DecoderNeverReadsLevels :
    (atPair 550#64 1675#64).init = true ∧
    ((atPair 550#64 1675#64).smp.map fun e => (e.1, e.2.duration)) =
      (((atPair 550#64 1675#64).smp.map fun e => (e.1, { e.2 with level := .low })).map fun e => (e.1, e.2.duration)) ∧
    ∃ t, exec .dstep (atPair 550#64 1675#64) = .next t := ⟨rfl, by decide, _, rfl⟩

theorem witness_DecoderWritesOnlyItsRegisters :
    (∃ t, exec .dstart oneSample = .next t) ∧ ∃ t, exec .dstep (atPair 550#64 1675#64) = .next t :=
  ⟨⟨_, rfl⟩, _, rfl⟩

/-- Four bits wanted; and, with 32 bits wanted, a bit step of a clean decode. -/
theorem witness_CodeLosesNoBit :
    (atPair 550#64 1675#64).Inv ∧ (atPair 550#64 1675#64).busy = true ∧
    (atPair 550#64 1675#64).bits.toNat < (atPair 550#64 1675#64).profile.bitCount.toNat ∧
    (atPair 550#64 1675#64).profile.bitCount.toNat ≤ 64 ∧
    (let s := { atPair 550#64 1675#64 with profile := t1 }
     s.busy = true ∧ s.profile.bitCount.toNat = 32 ∧ s.taint = false ∧ nextIs (exec .dstep s) (fun _ => true) = true) :=
  ⟨atPair_inv, by decide⟩

theorem witness_BclrResetsTheBuffer :
    (atPair 1#64 1#64).dstate = .decodingBits ∧ oneSample.dstate ≠ .awaitingWakeup ∧
    oneSample.dstate ≠ .decodingBits := by decide

theorem witness_PloadSwapsTheProfileAsAUnit :
    ({ fresh with dstate := .awaitingWakeup } : State).dstate = .awaitingWakeup ∧
    fresh.dstate ≠ .awaitingWakeup ∧ fresh.dstate ≠ .decodingBits := by decide

theorem witness_BufferAndProfileAreLockedWhileBusy : (atPair 1#64 1#64).busy = true := by decide

/-- A state for each group of registers, unspecified and specified. -/
theorem witness_RdregReturnsTheRegister :
    State.reset.init = false ∧ State.reset.dstate = .idle ∧ State.reset.ploaded = false ∧
    (8 ≤ (8#4 : BitVec 4).toNat ∧ (13#4 : BitVec 4).toNat ≤ 13) ∧ fresh.init = true ∧ fresh.ploaded = true ∧
    (atPair 1#64 1#64).dstate ≠ .idle := by decide

/-- At the capacity, and the last index below it, before and after the first BCLR. -/
theorem witness_RdsmpReturnsTheSampleWord :
    fresh.capacity.val ≤ (128#32 : Count).toNat ∧
    (127#32 : Count).toNat < State.reset.capacity.val ∧ State.reset.init = false ∧
    (127#32 : Count).toNat < oneSample.capacity.val ∧ oneSample.init = true ∧ oneSample.Inv ∧
    oneSample.stepCount.toNat ≤ (1#32 : Count).toNat :=
  ⟨by decide, by decide, by decide, by decide, by decide, oneSample_inv, by decide⟩

/-- The entry written, and one beside it. -/
theorem witness_AReadReturnsTheLatestWrite :
    SampleMem.wf oneSample.smp = true ∧ oneSample.init = true ∧ oneSample.seeded = true ∧
    oneSample.stepCount.toNat < oneSample.capacity.val ∧ (1#32 : Count).toNat < oneSample.capacity.val ∧
    (1#32 : Count) = oneSample.stepCount ∧ (0#32 : Count) ≠ oneSample.stepCount := by decide

theorem witness_StepKeepsTheInvariant :
    (given fresh .edgeCapture (encode (.edgeF 7#64))).Inv ∧
    ∃ t, step (given fresh .edgeCapture (encode (.edgeF 7#64))) = .next t :=
  ⟨⟨fresh_inv.memCanonical, fresh_inv.memBelow, fresh_inv.countBounded, fresh_inv.tailCleared, fresh_inv.ready,
    fresh_inv.snapBounded, fresh_inv.snapCommitted, fresh_inv.cursorBounded, fresh_inv.bitsBounded,
    fresh_inv.codeBounded, fresh_inv.waking, fresh_inv.pairing⟩, _, rfl⟩

/-- An operation that changes each group. -/
theorem witness_OnlyTheListedOperationsWrite :
    nextIs (exec (.edgeF 9#64) oneSample) (fun t => t.smp != oneSample.smp && t.lastEdge != oneSample.lastEdge) = true ∧
    nextIs (exec .bclr oneSample) (fun t => t.seeded != oneSample.seeded) = true ∧
    nextIs (exec (.pload t1) oneSample) (fun t => t.profile != oneSample.profile) = true ∧
    nextIs (exec .dstart oneSample) (fun t => t.dstate != oneSample.dstate) = true ∧
    nextIs (exec .bclr State.reset) (fun t => t.init != State.reset.init) = true := by decide

theorem witness_TaintRecordsAnEdgeInTheWindow :
    (atPair 1#64 1#64).taint = false ∧
    nextIs (exec (.edgeR 9#64) (atPair 1#64 1#64)) (fun t => t.taint) = true ∧
    (let s := { oneSample with taint := true, dstate := .complete }
     s.taint = true ∧ nextIs (exec .dstart s) (fun t => !t.taint) = true) := by decide

theorem witness_CommittedSamplesStayUntilBclr :
    oneSample.Inv ∧ oneSample.init = true ∧ Instr.bclr ∉ [Instr.edgeF 9#64, Instr.dstart, Instr.dstep] ∧
    ∃ t, runOps [.edgeF 9#64, .dstart, .dstep] oneSample = .next t := ⟨oneSample_inv, rfl, by decide, _, rfl⟩

theorem witness_ADecodeSeesOneProfileAndOneBuffer :
    (atPair 550#64 1675#64).Inv ∧ (atPair 550#64 1675#64).busy = true ∧
    ∃ t, exec (.edgeF 9#64) (atPair 550#64 1675#64) = .next t := ⟨atPair_inv, rfl, _, rfl⟩

/-- T2 with the frame `1011` and the halves of R7. -/
theorem witness_AFrameDecodesToItsBits :
    fresh.Inv ∧ fresh.init = true ∧ fresh.ploaded = true ∧ fresh.busy = false ∧ fresh.stepCount = 0#32 ∧
    fresh.seeded = false ∧ fresh.profile.wakeupStepCount = 2#32 ∧
    fresh.profile.bitCount.toNat = [true, false, true, true].length ∧ [true, false, true, true].length ≤ 64 ∧
    2 * [true, false, true, true].length + 3 ≤ fresh.capacity.val ∧ (550#64 : Duration) ≤ fresh.profile.zeroOneThreshold ∧
    fresh.profile.zeroOneThreshold < (1675#64 : Duration) ∧ (1675#64 : Duration) < fresh.profile.noiseCeiling ∧
    (550#64 : Duration) ≤ fresh.profile.separatorThreshold ∧ (1675#64 : Duration) ≤ fresh.profile.separatorThreshold :=
  ⟨fresh_inv, by decide⟩

theorem witness_ATraceRunsItsOperationsInOrder :
    ([.edgeF 5#64, .edgeR 9#64, .dstart, .dstep, .rdreg 5#4] : List Instr).all (·.wellFormed) = true ∧
    fresh.trace = [] := by decide

/-- Another operation than PLOAD, and a PLOAD that leaves the two fields, after a decode. -/
theorem witness_R40HoldsUntilAPloadAfterTheDecode :
    finished.InvR40 ∧ oneSample.Inv ∧ (∃ t, exec .dstart oneSample = .next t) ∧
    decode (encode .bclr) = .ok .bclr ∧
    nextIs (step (given finished .captureOwner (encode .bclr))) (fun _ => true) = true ∧
    (let p := { t2 with noiseCeiling := 3000#64 }
     decode (encode (.pload p)) = .ok (.pload p) ∧ p.bitCount = finished.profile.bitCount ∧
     p.wakeupStepCount = finished.profile.wakeupStepCount ∧
     nextIs (step (given finished .captureOwner (encode (.pload p)))) (fun _ => true) = true) :=
  ⟨finished_invR40, oneSample_inv, ⟨_, rfl⟩, by decide⟩

end Sys2Proof.Tests
end

/-! A frame sent to a freshly reset buffer decodes to its own bits: what a burst commits, and the bit phase of a
decode that reads it back. -/

namespace Sys2Proof.Machine

/-! ## Running operations one after another -/

theorem runOps_cons {i : Instr} {rest : List Instr} {s t : State} (h : exec i s = .next t) :
    runOps (i :: rest) s = runOps rest t := by
  simp [runOps, h]

theorem exec_edgeOp (k : EdgeKind) (now : Time) (s : State) : exec (edgeOp k now) s = .next (s.edge k now) := by
  cases k <;> rfl

theorem exec_dstep (s : State) : exec .dstep s = execDstep s := rfl

theorem exec_dstart_of_ready {s : State} (hi : s.init = true) (hp : s.ploaded = true) (hb : s.busy = false)
    (hc : s.stepCount ≠ 0#32) : exec .dstart s = .next s.beginDecode := by
  simp [exec, execDstart, hi, hp, hb, hc]

theorem dstepsWhileBusy_succ {s t : State} {fuel : Nat} (hb : s.busy = true) (h : exec .dstep s = .next t) :
    dstepsWhileBusy (fuel + 1) s = dstepsWhileBusy fuel t := by
  simp [dstepsWhileBusy, hb, h]

theorem dstepsWhileBusy_of_not_busy {s : State} (hb : s.busy = false) (fuel : Nat) :
    dstepsWhileBusy fuel s = .next s := by
  cases fuel <;> simp [dstepsWhileBusy, hb]

theorem exec_dstep_of_awaitingWakeup {s : State} (h : s.dstate = .awaitingWakeup) :
    exec .dstep s = .next s.wakeStep := by
  simp [exec_dstep, execDstep, h]

/-! ## The durations a buffer has committed -/

/-- The durations of the committed samples, in the order they were committed (R24, R25). -/
def State.committed (s : State) : List Duration := (List.range s.stepCount.toNat).map s.durations

@[simp] theorem State.committed_length (s : State) : s.committed.length = s.stepCount.toNat := by
  simp [State.committed]

theorem State.committed_of_stepCount_zero {s : State} (h : s.stepCount = 0#32) : s.committed = [] := by
  simp [State.committed, h]

@[simp] theorem State.committed_seed (s : State) (now : Time) : (s.seed now).committed = s.committed := rfl
@[simp] theorem State.committed_noteWindow (s : State) : s.noteWindow.committed = s.committed := rfl
@[simp] theorem State.committed_beginDecode (s : State) : s.beginDecode.committed = s.committed := rfl
@[simp] theorem State.committed_wakeStep (s : State) : s.wakeStep.committed = s.committed := rfl
@[simp] theorem State.committed_consumePair (s : State) (lo hi : Duration) :
    (s.consumePair lo hi).committed = s.committed := rfl

theorem State.durations_of_getElem?_committed {s : State} {i : Nat} {d : Duration} (h : s.committed[i]? = some d) :
    s.durations i = d := by
  obtain ⟨_, hj, rfl⟩ : ∃ j, (List.range s.stepCount.toNat)[i]? = some j ∧ s.durations j = d := by
    simpa [State.committed] using h
  obtain ⟨_, rfl⟩ := List.getElem?_eq_some_iff.1 hj
  rw [List.getElem_range]

/-- A pair at the head of what is left of the buffer is what `SmpRead` gives at its two indices. -/
theorem State.durations_of_drop_committed {s : State} {i : Nat} {lo hi : Duration} {rest : List Duration}
    (h : s.committed.drop i = lo :: hi :: rest) :
    s.durations i = lo ∧ s.durations (i + 1) = hi ∧ s.committed.drop (i + 2) = rest := by
  refine ⟨State.durations_of_getElem?_committed ?_, State.durations_of_getElem?_committed ?_, ?_⟩
  · simpa [h] using (List.getElem?_drop (xs := s.committed) (i := i) (j := 0)).symm
  · simpa [h] using (List.getElem?_drop (xs := s.committed) (i := i) (j := 1)).symm
  · rw [← List.drop_drop, h]; rfl

/-- A commit appends the time since the last edge (R122). -/
theorem State.committed_commit {s : State} (hw : SampleMem.wf s.smp = true)
    (hroom : s.stepCount.toNat < s.capacity.val) (k : EdgeKind) (now : Time) :
    (s.commit k now).committed = s.committed ++ [now - s.lastEdge] := by
  have hcount : (s.commit k now).stepCount.toNat = s.stepCount.toNat + 1 := count_add_one hroom s.capacity.fits
  have hread (j : Nat) : (s.commit k now).durations j =
      if j = s.stepCount.toNat then now - s.lastEdge else s.durations j := by
    simp only [State.durations, State.entry, State.commit_smp, SampleMem.read_write hw]
    split <;> rfl
  have hold : ∀ j ∈ List.range s.stepCount.toNat, (s.commit k now).durations j = s.durations j := by
    intro j hj
    rw [hread, if_neg (List.mem_range.1 hj).ne]
  rw [State.committed, hcount, List.range_succ, List.map_append, List.map_congr_left hold]
  simp [State.committed, hread]

/-! ## A burst of edges -/

/-- `t` is `s` with samples of durations `ds` appended; profile and decoder are the same. -/
structure State.Appends (s t : State) (ds : List Duration) : Prop where
  committed : t.committed = s.committed ++ ds
  init      : t.init = s.init
  capacity  : t.capacity = s.capacity
  profile   : SameProfile s t
  dstate    : t.dstate = s.dstate

theorem State.Appends.trans {s t u : State} {ds es : List Duration} (h : s.Appends t ds) (h' : t.Appends u es) :
    s.Appends u (ds ++ es) where
  committed := by rw [h'.committed, h.committed, List.append_assoc]
  init := h'.init.trans h.init
  capacity := h'.capacity.trans h.capacity
  profile := ⟨h'.profile.profile.trans h.profile.profile, h'.profile.ploaded.trans h.profile.ploaded⟩
  dstate := h'.dstate.trans h.dstate

theorem State.Appends.busy {s t : State} {ds : List Duration} (h : s.Appends t ds) : t.busy = s.busy := by
  simp only [State.busy, h.dstate]

theorem State.edge_of_seeded {s : State} (hi : s.init = true) (hs : s.seeded = true)
    (hroom : s.stepCount.toNat < s.capacity.val) (k : EdgeKind) (now : Time) :
    s.edge k now = s.noteWindow.commit k now := by
  simp [State.edge, hi, hs, s.not_full_iff.2 hroom]

theorem State.edge_of_unseeded {s : State} (hi : s.init = true) (hs : s.seeded = false)
    (hroom : s.stepCount.toNat < s.capacity.val) (k : EdgeKind) (now : Time) :
    s.edge k now = s.noteWindow.seed now := by
  simp [State.edge, hi, hs, s.not_full_iff.2 hroom]

theorem State.appends_noteWindow_commit {s : State} (hw : SampleMem.wf s.smp = true)
    (hroom : s.stepCount.toNat < s.capacity.val) (k : EdgeKind) (now : Time) :
    s.Appends (s.noteWindow.commit k now) [now - s.lastEdge] where
  committed := State.committed_commit (s := s.noteWindow) hw hroom k now
  init := rfl
  capacity := rfl
  profile := ⟨rfl, rfl⟩
  dstate := rfl

theorem State.appends_noteWindow_seed (s : State) (now : Time) : s.Appends (s.noteWindow.seed now) [] where
  committed := by simp
  init := rfl
  capacity := rfl
  profile := ⟨rfl, rfl⟩
  dstate := rfl

/-- A burst met by a seeded buffer first commits the time since the last edge, then its own durations. -/
theorem runOps_burstFrom_of_seeded (ds : List Duration) (k : EdgeKind) (now : Time) {s : State}
    (hw : SampleMem.wf s.smp = true) (hi : s.init = true) (hs : s.seeded = true)
    (hroom : s.stepCount.toNat + ds.length < s.capacity.val) :
    ∃ t, runOps (burstFrom k now ds) s = .next t ∧ s.Appends t ((now - s.lastEdge) :: ds) := by
  induction ds generalizing k now s with
  | nil =>
    refine ⟨s.noteWindow.commit k now, ?_, State.appends_noteWindow_commit hw hroom k now⟩
    rw [burstFrom, runOps_cons (exec_edgeOp k now s), State.edge_of_seeded hi hs hroom]
    rfl
  | cons d ds ih =>
    rw [List.length_cons] at hroom
    have hnow : s.stepCount.toNat < s.capacity.val := by omega
    have hcount : (s.noteWindow.commit k now).stepCount.toNat = s.stepCount.toNat + 1 :=
      count_add_one hnow s.capacity.fits
    obtain ⟨t, hrun, happ⟩ := ih (otherKind k) (now + d) (s := s.noteWindow.commit k now)
      (SampleMem.write_wf hw _ _) hi hs
      (by rw [hcount, State.commit_capacity, State.noteWindow_capacity]; omega)
    refine ⟨t, ?_, ?_⟩
    · rw [burstFrom, runOps_cons (exec_edgeOp k now s), State.edge_of_seeded hi hs hnow, hrun]
    · have hd : now + d - (s.noteWindow.commit k now).lastEdge = d := by simp
      rw [hd] at happ
      exact (State.appends_noteWindow_commit hw hnow k now).trans happ

/-- A burst met by a buffer without a last edge commits its durations, if they fit (R102). -/
theorem runOps_burst_of_unseeded (t0 : Time) (d : Duration) (ds : List Duration) {s : State}
    (hw : SampleMem.wf s.smp = true) (hi : s.init = true) (hs : s.seeded = false)
    (hroom : s.stepCount.toNat + (d :: ds).length ≤ s.capacity.val) :
    ∃ t, runOps (burst t0 (d :: ds)) s = .next t ∧ s.Appends t (d :: ds) := by
  rw [List.length_cons] at hroom
  obtain ⟨t, hrun, happ⟩ := runOps_burstFrom_of_seeded ds (otherKind .falling) (t0 + d)
    (s := s.noteWindow.seed t0) hw hi rfl hroom
  refine ⟨t, ?_, ?_⟩
  · rw [burst, burstFrom, runOps_cons (exec_edgeOp _ t0 s), State.edge_of_unseeded hi hs (by omega), hrun]
  · have hd : t0 + d - (s.noteWindow.seed t0).lastEdge = d := by simp
    rw [hd] at happ
    exact (State.appends_noteWindow_seed s t0).trans happ

@[simp] theorem frameBits_length (lo h0 h1 : Duration) (data : List Bool) :
    (frameBits lo h0 h1 data).length = 2 * data.length + 1 := by
  induction data with
  | nil => rfl
  | cons b data ih => simp only [frameBits, List.length_cons, ih]; omega

/-! ## The bits of a frame -/

/-- `CODE` after one more bit (R151). -/
def shiftIn (c : Acc) (b : Bool) : Acc := (c <<< 1) ||| (if b then 1#64 else 0#64)

/-- The number a list of bits stands for, most significant first, onto the number read so far. -/
def bitsOnto (n : Nat) (data : List Bool) : Nat := data.foldl (fun acc b => 2 * acc + (if b then 1 else 0)) n

/-- While all bits fit in `CODE`, shifting them in one by one writes their number. -/
theorem foldl_shiftIn_toNat (data : List Bool) (c : Acc) (h : (c.toNat + 1) * 2 ^ data.length ≤ 2 ^ 64) :
    (data.foldl shiftIn c).toNat = bitsOnto c.toNat data := by
  induction data generalizing c with
  | nil => rfl
  | cons b data ih =>
    have hstep : 2 * c.toNat + (if b then 1 else 0) + 1 ≤ (c.toNat + 1) * 2 := by split <;> omega
    have hfits : (2 * c.toNat + (if b then 1 else 0) + 1) * 2 ^ data.length ≤ 2 ^ 64 :=
      calc _ ≤ (c.toNat + 1) * 2 * 2 ^ data.length := Nat.mul_le_mul_right _ hstep
        _ = (c.toNat + 1) * 2 ^ (b :: data).length := by rw [List.length_cons, Nat.pow_succ']; ring
        _ ≤ 2 ^ 64 := h
    have hc : (shiftIn c b).toNat = 2 * c.toNat + (if b then 1 else 0) := by
      rw [shiftIn, shifted_code, Nat.mod_eq_of_lt]
      exact (Nat.le_mul_of_pos_right _ (Nat.two_pow_pos _)).trans hfits
    rw [List.foldl_cons, ih _ (by rwa [hc]), hc]
    rfl

/-- The thresholds tell a frame's halves apart: none is a separator, no half is an anomaly, `h0` is a 0 and `h1` a 1
(R150 to R153). -/
structure TellsApart (p : Profile) (lo h0 h1 : Duration) : Prop where
  loShort : lo ≤ p.zeroOneThreshold
  h0Short : h0 ≤ p.zeroOneThreshold
  h1Long  : p.zeroOneThreshold < h1
  h1Quiet : h1 < p.noiseCeiling
  loJoins : lo ≤ p.separatorThreshold
  h0Joins : h0 ≤ p.separatorThreshold
  h1Joins : h1 ≤ p.separatorThreshold

section
variable {p : Profile} {lo h0 h1 : Duration}

theorem TellsApart.not_separatorIn (h : TellsApart p lo h0 h1) (b : Bool) :
    separatorIn p lo (if b then h1 else h0) = false := by
  rw [Bool.eq_false_iff, Ne, separatorIn_iff, not_or, BitVec.not_lt, BitVec.not_lt]
  cases b
  · exact ⟨h.loJoins, h.h0Joins⟩
  · exact ⟨h.loJoins, h.h1Joins⟩

theorem TellsApart.not_lowAnomaly (h : TellsApart p lo h0 h1) : lowAnomaly p lo = false := by
  rw [Bool.eq_false_iff, Ne, lowAnomaly_iff, BitVec.not_lt]
  exact h.loShort

theorem TellsApart.not_noisyHigh (h : TellsApart p lo h0 h1) (b : Bool) :
    noisyHigh p (if b then h1 else h0) = false := by
  rw [Bool.eq_false_iff, Ne, noisyHigh_iff, not_and_or, BitVec.not_lt, BitVec.not_le]
  cases b
  · exact .inl h.h0Short
  · exact .inr h.h1Quiet

theorem TellsApart.acceptedOne_eq (h : TellsApart p lo h0 h1) (b : Bool) :
    acceptedOne p (if b then h1 else h0) = b := by
  cases b
  · rw [Bool.eq_false_iff, Ne, acceptedOne_iff]
    exact fun hone => BitVec.not_lt.2 h.h0Short hone.1
  · exact (acceptedOne_iff p h1).2 ⟨h.h1Long, h.h1Quiet⟩
end

/-- A clean decode in its bit phase, with the bits `data` of a frame and its final low half still to be read. -/
structure State.FrameLeft (s : State) (lo h0 h1 : Duration) (data : List Bool) : Prop where
  init     : s.init = true
  decoding : s.dstate = .decodingBits
  clean    : s.taint = false
  noError  : s.error = false
  snapAll  : s.snap = s.stepCount
  fits     : s.snap.toNat ≤ s.capacity.val
  tells    : TellsApart s.profile lo h0 h1
  wanted   : s.bits.toNat + data.length = s.profile.bitCount.toNat
  left     : s.committed.drop s.cursor.toNat = frameBits lo h0 h1 data

section
variable {s : State} {lo h0 h1 : Duration} {data : List Bool}

theorem State.FrameLeft.busy (h : s.FrameLeft lo h0 h1 data) : s.busy = true :=
  s.busy_iff.2 (.inr h.decoding)

theorem State.FrameLeft.snap_eq (h : s.FrameLeft lo h0 h1 data) :
    s.snap.toNat = s.cursor.toNat + 2 * data.length + 1 := by
  have hlen := congrArg List.length h.left
  rw [List.length_drop, State.committed_length, frameBits_length, ← h.snapAll] at hlen
  omega

/-- A DSTEP takes the first bit that is left (R151). -/
theorem State.FrameLeft.dstep_bit {b : Bool} (h : s.FrameLeft lo h0 h1 (b :: data)) :
    exec .dstep s = .next (s.consumePair lo (if b then h1 else h0)) := by
  have hsnap := h.snap_eq
  have hwanted := h.wanted
  rw [List.length_cons] at hsnap hwanted
  obtain ⟨hlo, hhi, -⟩ := State.durations_of_drop_committed h.left
  rw [State.durations, State.entry] at hlo hhi
  rw [exec_dstep, execDstep_bit h.init h.fits h.decoding (by omega) (by omega), hlo, hhi, State.takePair,
    h.tells.not_separatorIn b]
  rfl

/-- The bits after the first are left once it is taken. -/
theorem State.FrameLeft.consumePair {b : Bool} (h : s.FrameLeft lo h0 h1 (b :: data)) :
    (s.consumePair lo (if b then h1 else h0)).FrameLeft lo h0 h1 data := by
  have hsnap := h.snap_eq
  have hwanted := h.wanted
  rw [List.length_cons] at hsnap hwanted
  have hbits : (s.bits + 1#32).toNat = s.bits.toNat + 1 := bits_add_one (x := s.profile.bitCount) (by omega)
  have hcursor : (s.cursor + 2#32).toNat = s.cursor.toNat + 2 := count_add_two (x := s.snap) (by omega)
  exact
    { init := h.init
      decoding := h.decoding
      clean := h.clean
      noError := by simp [h.noError, h.tells.not_lowAnomaly, h.tells.not_noisyHigh b]
      snapAll := h.snapAll
      fits := h.fits
      tells := h.tells
      wanted := by rw [State.consumePair_bits, State.consumePair_profile, hbits]; omega
      left := by
        rw [State.committed_consumePair, State.consumePair_cursor, hcursor]
        exact (State.durations_of_drop_committed h.left).2.2 }

/-- With no bit left the lone final low half makes no extra pair, whatever `P.expectedStepCount` is, and the decode
ends `COMPLETE` (R155, R156). -/
theorem State.FrameLeft.dstep_finish (h : s.FrameLeft lo h0 h1 []) :
    exec .dstep s = .next { s with dstate := .complete } := by
  have hsnap := h.snap_eq
  have hwanted := h.wanted
  rw [List.length_nil] at hsnap hwanted
  have hextra : s.extraPairLeft = false := by
    rw [Bool.eq_false_iff, Ne, State.extraPairLeft_iff]
    omega
  have hbits : s.bitsWanted = false := by
    rw [Bool.eq_false_iff, Ne, State.bitsWanted_iff]
    omega
  rw [exec_dstep, execDstep_extra h.decoding (by omega), hextra, State.finish_of_clean h.clean,
    State.finishClean_eq_self, State.terminalState, h.noError, hbits]
  rfl

/-- The bit phase of a frame: DSTEP after DSTEP takes its bits, then the decode ends. -/
theorem State.FrameLeft.decodes (h : s.FrameLeft lo h0 h1 data) {fuel : Nat} (hf : data.length < fuel) :
    ∃ u, dstepsWhileBusy fuel s = .next u ∧ u.dstate = .complete ∧ u.error = false ∧
      u.bits.toNat = s.profile.bitCount.toNat ∧ u.code = data.foldl shiftIn s.code := by
  obtain ⟨fuel, rfl⟩ : ∃ n, fuel = n + 1 := ⟨fuel - 1, by omega⟩
  induction data generalizing s fuel with
  | nil =>
    refine ⟨{ s with dstate := .complete }, ?_, rfl, h.noError, h.wanted, rfl⟩
    rw [dstepsWhileBusy_succ h.busy h.dstep_finish, dstepsWhileBusy_of_not_busy rfl]
  | cons b data ih =>
    rw [List.length_cons] at hf
    obtain ⟨fuel, rfl⟩ : ∃ n, fuel = n + 1 := ⟨fuel - 1, by omega⟩
    obtain ⟨u, hrun, hd, he, hb, hc⟩ := ih h.consumePair fuel (by omega)
    refine ⟨u, by rw [dstepsWhileBusy_succ h.busy h.dstep_bit, hrun], hd, he, hb, ?_⟩
    rw [hc, State.consumePair_code, h.tells.acceptedOne_eq b]
    rfl
end

/-- A buffer that holds exactly a frame, with the decoder at rest and a profile that fits the frame. -/
structure State.HoldsFrame (t : State) (wl wh lo h0 h1 : Duration) (data : List Bool) : Prop where
  init    : t.init = true
  ploaded : t.ploaded = true
  rest    : t.busy = false
  fits    : t.stepCount.toNat ≤ t.capacity.val
  wakeup  : t.profile.wakeupStepCount = 2#32
  bits    : t.profile.bitCount.toNat = data.length
  tells   : TellsApart t.profile lo h0 h1
  frame   : t.committed = wl :: wh :: frameBits lo h0 h1 data

section
variable {t : State} {wl wh lo h0 h1 : Duration} {data : List Bool}

theorem State.HoldsFrame.stepCount_eq (h : t.HoldsFrame wl wh lo h0 h1 data) :
    t.stepCount.toNat = 2 + 2 * data.length + 1 := by
  rw [← t.committed_length, h.frame, List.length_cons, List.length_cons, frameBits_length]
  omega

/-- The wake-up step of a fresh decode passes the two halves of the marker and leaves the frame's bits (R143). -/
theorem State.HoldsFrame.wakeStep (h : t.HoldsFrame wl wh lo h0 h1 data) :
    t.beginDecode.wakeStep.FrameLeft lo h0 h1 data where
  init := h.init
  decoding := rfl
  clean := rfl
  noError := rfl
  snapAll := rfl
  fits := h.fits
  tells := h.tells
  wanted := by simp [h.bits]
  left := by
    have hcursor : t.beginDecode.wakeStep.cursor.toNat = 2 := by
      rw [State.wakeStep_cursor_toNat, State.beginDecode_profile, State.beginDecode_snap, h.wakeup, h.stepCount_eq]
      exact min_eq_left (by simp only [BitVec.toNat_ofNat]; omega)
    rw [hcursor, State.committed_wakeStep, State.committed_beginDecode, h.frame]
    rfl

/-- The bound of R142 leaves DECODE enough DSTEPs for the wake-up step, the bits and the finish. -/
theorem State.HoldsFrame.decodeCall (h : t.HoldsFrame wl wh lo h0 h1 data) :
    ∃ u, decodeCall t = .next u ∧ u.dstate = .complete ∧ u.error = false ∧ u.bits.toNat = data.length ∧
      u.code = data.foldl shiftIn 0#64 := by
  have hcount := h.stepCount_eq
  have hne : t.stepCount ≠ 0#32 := by
    intro hzero
    simp [hzero] at hcount
  have hstart := exec_dstart_of_ready h.init h.ploaded h.rest hne
  have hwake : exec .dstep t.beginDecode = .next t.beginDecode.wakeStep := exec_dstep_of_awaitingWakeup rfl
  have hfuel : 2 + t.beginDecode.snap.toNat / 2 = (data.length + 2) + 1 := by
    rw [State.beginDecode_snap]
    omega
  obtain ⟨u, hrun, hd, he, hb, hc⟩ := h.wakeStep.decodes (fuel := data.length + 2) (by omega)
  refine ⟨u, ?_, hd, he, hb.trans h.bits, hc⟩
  simp only [Machine.decodeCall, hstart]
  rw [hfuel, dstepsWhileBusy_succ rfl hwake, hrun]
end

/-- A frame sent to a freshly reset buffer that has room for it is what the buffer then holds (R102). -/
theorem runOps_frame {s : State} {wl wh lo h0 h1 : Duration} {data : List Bool} (t0 : Time)
    (hw : SampleMem.wf s.smp = true) (hi : s.init = true) (hp : s.ploaded = true) (hb : s.busy = false)
    (hempty : s.stepCount = 0#32) (hseed : s.seeded = false) (hwake : s.profile.wakeupStepCount = 2#32)
    (hbits : s.profile.bitCount.toNat = data.length) (hroom : 2 * data.length + 3 ≤ s.capacity.val)
    (htells : TellsApart s.profile lo h0 h1) :
    ∃ t, runOps (frame t0 wl wh lo h0 h1 data) s = .next t ∧ t.HoldsFrame wl wh lo h0 h1 data := by
  obtain ⟨t, hrun, happ⟩ := runOps_burst_of_unseeded t0 wl (wh :: frameBits lo h0 h1 data) hw hi hseed
    (by simp [hempty]; omega)
  have hframe : t.committed = wl :: wh :: frameBits lo h0 h1 data := by
    rw [happ.committed, State.committed_of_stepCount_zero hempty, List.nil_append]
  have hcount : t.stepCount.toNat = 2 * data.length + 3 := by
    rw [← t.committed_length, hframe, List.length_cons, List.length_cons, frameBits_length]
  refine ⟨t, hrun, ?_⟩
  exact
    { init := happ.init.trans hi
      ploaded := happ.profile.ploaded.trans hp
      rest := happ.busy.trans hb
      fits := by rwa [hcount, happ.capacity]
      wakeup := by rw [happ.profile.profile, hwake]
      bits := by rw [happ.profile.profile, hbits]
      tells := by rwa [happ.profile.profile]
      frame := hframe }

/-- Settles O46: the frame's edges commit its durations (induction over the burst), and the decode that follows takes
one bit a pair (induction over the bits). -/
theorem aFrameDecodesToItsBits : Obligations.AFrameDecodesToItsBits := by
  unfold Obligations.AFrameDecodesToItsBits
  intro s t0 wl wh lo h0 h1 data hinv hi hp hb hempty hseed hwake hbits hlen hroom loShort h0Short h1Long h1Quiet
    loJoins h0Joins h1Joins
  have htells : TellsApart s.profile lo h0 h1 := ⟨loShort, h0Short, h1Long, h1Quiet, loJoins, h0Joins, h1Joins⟩
  obtain ⟨t, hrun, ht⟩ := runOps_frame t0 hinv.memCanonical hi hp hb hempty hseed hwake hbits hroom htells
  obtain ⟨u, hdec, hd, he, hub, hc⟩ := ht.decodeCall
  refine ⟨t, u, hrun, ht.stepCount_eq, hdec, hd, he, hub, ?_⟩
  have hfits : ((0#64 : Acc).toNat + 1) * 2 ^ data.length ≤ 2 ^ 64 := by
    simpa using Nat.pow_le_pow_right Nat.two_pos hlen
  rw [hc, foldl_shiftIn_toNat data 0#64 hfits]
  rfl

end Sys2Proof.Machine

/-! What every operation keeps: who writes which piece of state (R36), when `TAINT` moves (R43), and the invariant of
R40. One inversion lemma, `State.effect_of_exec`, says what an accepted operation does; the rest is read off it. -/

namespace Sys2Proof.Machine

/-! ## What an accepted operation does -/

/-- The effects an accepted operation can have, `EDGE.F` and `EDGE.R` in one case and the two reads in one. -/
inductive State.Effect (s : State) : Instr → State → Prop
  | edge (k : EdgeKind) (now : Time) : s.Effect (edgeOp k now) (s.edge k now)
  | bclr (notBusy : s.busy = false) : s.Effect .bclr s.clearBuffer
  | pload (p : Profile) (notBusy : s.busy = false) : s.Effect (.pload p) (s.loadProfile p)
  | dstart (init : s.init = true) (ploaded : s.ploaded = true) (notBusy : s.busy = false)
      (committed : s.stepCount ≠ 0#32) : s.Effect .dstart s.beginDecode
  | dstep {t : State} (accepted : execDstep s = .next t) : s.Effect .dstep t
  | read {i : Instr} (isRead : (∃ r, i = .rdreg r) ∨ ∃ idx, i = .rdsmp idx) (d : ReadData) (n : Nat) :
      s.Effect i { s with readData := some d, draws := n }

theorem State.effect_of_exec {s t : State} {i : Instr} (h : exec i s = .next t) : s.Effect i t := by
  cases i with
  | edgeF now => cases h; exact .edge .falling now
  | edgeR now => cases h; exact .edge .rising now
  | bclr => obtain ⟨hb, rfl⟩ := execBclr_cases h; exact .bclr hb
  | pload p => obtain ⟨hb, rfl⟩ := execPload_cases h; exact .pload p hb
  | dstart => obtain ⟨hi, hp, hb, hc, rfl⟩ := execDstart_cases h; exact .dstart hi hp hb hc
  | dstep => exact .dstep h
  | rdreg r => obtain ⟨d, n, rfl⟩ := execRdreg_cases h; exact .read (.inl ⟨r, rfl⟩) d n
  | rdsmp idx => obtain ⟨d, n, rfl⟩ := execRdsmp_cases h; exact .read (.inr ⟨idx, rfl⟩) d n

theorem edgeOp_isEdge (k : EdgeKind) (now : Time) :
    ∃ now', edgeOp k now = .edgeF now' ∨ edgeOp k now = .edgeR now' := by
  cases k
  · exact ⟨now, .inl rfl⟩
  · exact ⟨now, .inr rfl⟩

/-- What an EDGE leaves alone, on every path of R121. -/
theorem State.edge_frame (s : State) (k : EdgeKind) (now : Time) :
    SameProfile s (s.edge k now) ∧ SameDecoder s (s.edge k now) ∧ SameInput s (s.edge k now) ∧
      (s.edge k now).init = s.init := by
  obtain ⟨-, h⟩ | ⟨-, -, h⟩ | ⟨-, -, -, h⟩ | ⟨-, -, -, h⟩ := s.edge_cases k now <;> rw [h] <;>
    exact ⟨⟨rfl, rfl⟩, ⟨rfl, ⟨rfl, rfl, rfl, rfl, rfl⟩⟩, ⟨rfl, rfl⟩, rfl⟩

/-- What a DSTEP leaves alone (R162). -/
theorem execDstep_frame {s t : State} (h : execDstep s = .next t) :
    SameCapture s t ∧ SameProfile s t ∧ SameInput s t ∧ t.taint = s.taint := by
  obtain ⟨-, rfl⟩ | ⟨-, -, -, -, n, lo, hi, -, -, rfl⟩ | ⟨-, -, -, rfl⟩ | ⟨-, n, -, rfl⟩ := execDstep_cases h
  · exact ⟨⟨rfl, rfl, rfl, rfl, rfl⟩, ⟨rfl, rfl⟩, ⟨rfl, rfl⟩, rfl⟩
  · exact ⟨⟨rfl, rfl, rfl, rfl, rfl⟩, ⟨rfl, rfl⟩, ⟨rfl, rfl⟩, rfl⟩
  · exact ⟨⟨rfl, rfl, rfl, rfl, rfl⟩, ⟨rfl, rfl⟩, ⟨rfl, rfl⟩, rfl⟩
  · obtain ⟨hlast, hseed, hsmp, hcount, hprof, hload, -, hinit, htaint, hcap, htrace, -, -⟩ :=
      ({ s with draws := n } : State).finish_frame
    exact ⟨⟨hlast, hseed, hsmp, hcount, hinit⟩, ⟨hprof, hload⟩, ⟨hcap, htrace⟩, htaint⟩

/-- Settles O42, one case of `State.Effect` after another. -/
theorem onlyTheListedOperationsWrite : Obligations.OnlyTheListedOperationsWrite := by
  unfold Obligations.OnlyTheListedOperationsWrite
  intro s t i h
  cases State.effect_of_exec h with
  | edge k now =>
    obtain ⟨⟨hprof, hload⟩, ⟨hd, ⟨hsnap, hcur, hbits, herr, hcode⟩⟩, ⟨hcap, htrace⟩, hinit⟩ := s.edge_frame k now
    simp [edgeOp_isEdge k now, hprof, hload, hd, hsnap, hcur, hbits, herr, hcode, hcap, htrace, hinit]
  | bclr notBusy => simp
  | pload p notBusy => simp
  | dstart init ploaded notBusy committed => simp
  | dstep accepted =>
    obtain ⟨⟨hlast, hseed, hsmp, hcount, hinit⟩, ⟨hprof, hload⟩, ⟨hcap, htrace⟩, htaint⟩ :=
      execDstep_frame accepted
    simp [hlast, hseed, hsmp, hcount, hinit, hprof, hload, hcap, htrace, htaint]
  | read isRead d n => simp

/-- `TAINT` after an EDGE (R43): set by an accepted one while the decoder is busy. -/
theorem State.edge_taint (s : State) (k : EdgeKind) (now : Time) :
    (s.edge k now).taint = (s.taint || (s.accepts && s.busy)) := by
  obtain ⟨hi, h⟩ | ⟨hi, hfull, h⟩ | ⟨hi, hroom, -, h⟩ | ⟨hi, hroom, -, h⟩ := s.edge_cases k now <;> rw [h]
  · simp [State.accepts, hi]
  · simp [State.accepts, s.full_iff.2 hfull]
  · simp [s.accepts_iff.2 ⟨hi, hroom⟩]
  · simp [s.accepts_iff.2 ⟨hi, hroom⟩]

/-- Settles O43: `State.edge_taint` for an EDGE; DSTART clears, and every other operation leaves `TAINT` alone. -/
theorem taintRecordsAnEdgeInTheWindow : Obligations.TaintRecordsAnEdgeInTheWindow := by
  unfold Obligations.TaintRecordsAnEdgeInTheWindow
  intro s t i h
  cases State.effect_of_exec h with
  | edge k now =>
    obtain ⟨now', hedge⟩ := edgeOp_isEdge k now
    have hne : edgeOp k now ≠ .dstart := by cases k <;> simp [edgeOp]
    rw [State.edge_taint]
    refine ⟨fun hclean htaint => ?_, fun htaint hclean => ?_, fun hdstart => absurd hdstart hne,
      fun _ hbusy hinit hroom => ?_⟩
    · rw [hclean, Bool.false_or, Bool.and_eq_true, State.accepts_iff] at htaint
      obtain ⟨⟨hinit, hroom⟩, hbusy⟩ := htaint
      exact ⟨⟨now', hedge⟩, hbusy, hinit, hroom⟩
    · simp [htaint] at hclean
    · simp [s.accepts_iff.2 ⟨hinit, hroom⟩, hbusy]
  | bclr notBusy => simp +contextual
  | pload p notBusy => simp +contextual
  | dstart init ploaded notBusy committed => simp
  | dstep accepted =>
    obtain ⟨-, -, -, htaint⟩ := execDstep_frame accepted
    simp +contextual [htaint]
  | read isRead d n => obtain ⟨r, rfl⟩ | ⟨idx, rfl⟩ := isRead <;> simp +contextual

/-! ## The invariant in three parts -/

/-- The clauses of `State.Inv` about the BurstBuffer (R60, R40 (i) and (vii)). -/
structure State.CaptureInv (s : State) : Prop where
  memCanonical : SampleMem.wf s.smp = true
  memBelow     : SampleMem.below s.capacity.val s.smp = true
  countBounded : s.init = true → s.stepCount.toNat ≤ s.capacity.val
  tailCleared  : s.init = true → ∀ i, s.stepCount.toNat ≤ i → s.entry i = Sample.cleared

/-- The clauses of `State.Inv` about the decoder (R141, R40 (ii) to (vi)). -/
structure State.DecoderInv (s : State) : Prop where
  ready         : s.dstate ≠ .idle → s.init = true ∧ s.ploaded = true
  snapBounded   : s.dstate ≠ .idle → 1 ≤ s.snap.toNat ∧ s.snap.toNat ≤ s.capacity.val
  snapCommitted : s.busy = true → s.snap.toNat ≤ s.stepCount.toNat
  cursorBounded : s.dstate ≠ .idle → (s.busy = true ∨ s.taint = false) → s.cursor.toNat ≤ s.snap.toNat
  bitsBounded   : s.busy = true → s.bits.toNat ≤ s.profile.bitCount.toNat
  codeBounded   : s.dstate ≠ .idle → (s.busy = true ∨ s.taint = false) → s.code.toNat < 2 ^ min s.bits.toNat 64
  waking        : s.dstate = .awaitingWakeup →
    s.cursor = 0#32 ∧ s.bits = 0#32 ∧ s.error = false ∧ s.code = 0#64
  pairing       : s.dstate = .decodingBits →
    ∃ k, s.cursor.toNat = min s.profile.wakeupStepCount.toNat s.snap.toNat + 2 * k

/-- The clauses that `State.InvR40` adds, about a finished result (R40 (iv) and (vi)). -/
structure State.ResultInv (s : State) : Prop where
  resultBits    : s.dstate ≠ .idle → s.taint = false → s.bits.toNat ≤ s.profile.bitCount.toNat
  resultPairing : s.dstate = .decodingBits ∨ s.terminal = true → s.taint = false →
    ∃ k, s.cursor.toNat = min s.profile.wakeupStepCount.toNat s.snap.toNat + 2 * k

theorem State.inv_iff {s : State} : s.Inv ↔ s.CaptureInv ∧ s.DecoderInv :=
  ⟨fun h => ⟨{ h with }, { h with }⟩, fun ⟨hc, hd⟩ => { hc, hd with }⟩

theorem State.invR40_iff {s : State} : s.InvR40 ↔ s.Inv ∧ s.ResultInv :=
  ⟨fun h => ⟨h.toInv, { h with }⟩, fun ⟨hi, hr⟩ => { hi, hr with }⟩

/-- A busy decoder's clauses say of its unfinished result what R40 says of a finished one. -/
theorem State.DecoderInv.resultInv_of_busy {s : State} (h : s.DecoderInv) (hb : s.busy = true) : s.ResultInv where
  resultBits := fun _ _ => h.bitsBounded hb
  resultPairing := by
    rintro (hd | hterm) _
    · exact h.pairing hd
    · rw [State.busy_iff] at hb
      obtain hd | hd := hb <;> simp [State.terminal, hd] at hterm

/-- Before the first DSTART nothing is asked of the decoder. -/
theorem State.decoderInv_of_idle {s : State} (hd : s.dstate = .idle) : s.DecoderInv := by
  constructor <;> simp [hd, State.busy]

theorem State.resultInv_of_idle {s : State} (hd : s.dstate = .idle) : s.ResultInv := by
  constructor <;> simp [hd, State.terminal]

/-! ## The BurstBuffer's part -/

theorem State.CaptureInv.congr {s t : State} (h : s.CaptureInv) (hsame : SameCapture s t)
    (hcap : t.capacity = s.capacity) : t.CaptureInv := by
  obtain ⟨-, -, hsmp, hcount, hinit⟩ := hsame
  constructor <;> simp only [hsmp, hcount, hinit, hcap, State.entry]
  · exact h.memCanonical
  · exact h.memBelow
  · exact h.countBounded
  · exact h.tailCleared

/-- An empty reset buffer meets its clauses (R181). -/
theorem State.captureInv_clearBuffer (s : State) : s.clearBuffer.CaptureInv where
  memCanonical := rfl
  memBelow := rfl
  countBounded := fun _ => Nat.zero_le _
  tailCleared := fun _ _ _ => rfl

/-- Before the first BCLR the drawn memory only has to be one (R121, R60). -/
theorem State.captureInv_drawCapture {s : State} (hi : s.init = false) : s.drawCapture.CaptureInv where
  memCanonical := SampleMem.drawnFrom_wf _ _
  memBelow := by simpa using SampleMem.drawnFrom_below (Config.freeSample s.draws) 0 s.capacity.val
  countBounded := by simp [hi]
  tailCleared := by simp [hi]

/-- A commit writes the entry `STEPCOUNT`, which is then below `STEPCOUNT` (R64, R121). -/
theorem State.CaptureInv.commit {s : State} (h : s.CaptureInv) (hi : s.init = true)
    (hroom : s.stepCount.toNat < s.capacity.val) (k : EdgeKind) (now : Time) : (s.commit k now).CaptureInv := by
  have hcount : (s.commit k now).stepCount.toNat = s.stepCount.toNat + 1 := count_add_one hroom s.capacity.fits
  refine ⟨SampleMem.write_wf h.memCanonical _ _, SampleMem.write_below h.memBelow hroom _, fun _ => ?_,
    fun _ i hle => ?_⟩
  · rw [hcount]
    exact hroom
  · rw [hcount] at hle
    rw [State.entry, State.commit_smp, SampleMem.read_write h.memCanonical,
      if_neg (show i ≠ s.stepCount.toNat by omega)]
    exact h.tailCleared hi i (by omega)

theorem State.CaptureInv.edge {s : State} (h : s.CaptureInv) (k : EdgeKind) (now : Time) :
    (s.edge k now).CaptureInv := by
  have hnote : s.noteWindow.CaptureInv := h.congr ⟨rfl, rfl, rfl, rfl, rfl⟩ rfl
  obtain ⟨hi, heq⟩ | ⟨-, -, heq⟩ | ⟨-, -, -, heq⟩ | ⟨hi, hroom, -, heq⟩ := s.edge_cases k now <;> rw [heq]
  · exact State.captureInv_drawCapture hi
  · exact h
  · exact { hnote with }
  · exact hnote.commit hi hroom k now

/-- Every operation keeps the BurstBuffer's clauses. -/
theorem State.CaptureInv.exec {s t : State} {i : Instr} (h : s.CaptureInv) (hx : exec i s = .next t) :
    t.CaptureInv := by
  cases State.effect_of_exec hx with
  | edge k now => exact h.edge k now
  | bclr notBusy => exact s.captureInv_clearBuffer
  | pload p notBusy => exact { h with }
  | dstart init ploaded notBusy committed => exact { h with }
  | dstep accepted =>
    obtain ⟨hsame, -, ⟨hcap, -⟩, -⟩ := execDstep_frame accepted
    exact h.congr hsame hcap
  | read isRead d n => exact { h with }

/-! ## The decoder's part, under the operations that are not the decoder's -/

/-- What the decoder's clauses need of an operation that does not write its registers: a reset buffer, a profile and
`TAINT` are not lost, and the committed samples of a decode window stay committed. -/
structure State.LeavesDecoder (s t : State) : Prop where
  decoder  : SameDecoder s t
  capacity : t.capacity = s.capacity
  init     : s.init = true → t.init = true
  ploaded  : s.ploaded = true → t.ploaded = true
  clean    : t.taint = false → s.taint = false
  count    : s.init = true → s.busy = true → s.stepCount.toNat ≤ t.stepCount.toNat

/-- The two fields of the profile that R40 (iv) and (vi) measure a result by. -/
structure SameMeasure (s t : State) : Prop where
  bitCount        : t.profile.bitCount = s.profile.bitCount
  wakeupStepCount : t.profile.wakeupStepCount = s.profile.wakeupStepCount

theorem SameMeasure.of_profile {s t : State} (h : t.profile = s.profile) : SameMeasure s t := by
  constructor <;> rw [h]

theorem SameDecoder.busy {s t : State} (h : SameDecoder s t) : t.busy = s.busy := by
  simp only [State.busy, h.dstate]

theorem SameDecoder.terminal {s t : State} (h : SameDecoder s t) : t.terminal = s.terminal := by
  simp only [State.terminal, h.dstate]

theorem State.DecoderInv.leave {s t : State} (h : s.DecoderInv) (hl : s.LeavesDecoder t)
    (hm : s.busy = true → SameMeasure s t) : t.DecoderInv := by
  have hbusy := hl.decoder.busy
  obtain ⟨⟨hd, ⟨hsnap, hcur, hbits, herr, hcode⟩⟩, hcap, hinit, hload, hclean, hcount⟩ := hl
  constructor <;> simp only [hbusy, hd, hsnap, hcur, hbits, herr, hcode, hcap]
  · exact fun hne => (h.ready hne).imp hinit hload
  · exact h.snapBounded
  · exact fun hb => (h.snapCommitted hb).trans (hcount (h.ready (State.busy_ne_idle hb)).1 hb)
  · exact fun hne hlive => h.cursorBounded hne (hlive.imp_right hclean)
  · exact fun hb => (hm hb).bitCount ▸ h.bitsBounded hb
  · exact fun hne hlive => h.codeBounded hne (hlive.imp_right hclean)
  · exact h.waking
  · exact fun hd => (hm (s.busy_iff.2 (.inr hd))).wakeupStepCount ▸ h.pairing hd

theorem State.ResultInv.leave {s t : State} (h : s.ResultInv) (hl : s.LeavesDecoder t)
    (hm : s.dstate ≠ .idle → SameMeasure s t) : t.ResultInv := by
  have hterm := hl.decoder.terminal
  obtain ⟨⟨hd, ⟨hsnap, hcur, hbits, -, -⟩⟩, -, -, -, hclean, -⟩ := hl
  constructor <;> simp only [hterm, hd, hsnap, hcur, hbits]
  · exact fun hne ht => (hm hne).bitCount ▸ h.resultBits hne (hclean ht)
  · intro hdone ht
    have hne : s.dstate ≠ .idle := by
      intro hidle
      simp [hidle, State.terminal] at hdone
    exact (hm hne).wakeupStepCount ▸ h.resultPairing hdone (hclean ht)

theorem State.leavesDecoder_edge (s : State) (k : EdgeKind) (now : Time) : s.LeavesDecoder (s.edge k now) := by
  obtain ⟨⟨-, hload⟩, hdec, ⟨hcap, -⟩, hinit⟩ := s.edge_frame k now
  refine ⟨hdec, hcap, fun hi => hinit.trans hi, fun hp => hload.trans hp, fun ht => ?_, fun hi _ => ?_⟩
  · rw [State.edge_taint, Bool.or_eq_false_iff] at ht
    exact ht.1
  · obtain ⟨hni, -⟩ | ⟨-, -, heq⟩ | ⟨-, -, -, heq⟩ | ⟨-, hroom, -, heq⟩ := s.edge_cases k now
    · simp [hi] at hni
    · rw [heq]
    · rw [heq]; rfl
    · have hcount : (s.noteWindow.commit k now).stepCount.toNat = s.stepCount.toNat + 1 :=
        count_add_one hroom s.capacity.fits
      rw [heq, hcount]
      exact Nat.le_succ _

/-- The operations that are not the decoder's leave it alone; BCLR and PLOAD are refused in a window (R181, R182). -/
theorem State.leavesDecoder_exec {s t : State} {i : Instr} (hx : exec i s = .next t) (hstart : i ≠ .dstart)
    (hstep : i ≠ .dstep) : s.LeavesDecoder t := by
  cases State.effect_of_exec hx with
  | edge k now => exact s.leavesDecoder_edge k now
  | bclr notBusy =>
    exact ⟨⟨rfl, ⟨rfl, rfl, rfl, rfl, rfl⟩⟩, rfl, fun _ => rfl, id, id, fun _ hb => by simp [notBusy] at hb⟩
  | pload p notBusy => exact ⟨⟨rfl, ⟨rfl, rfl, rfl, rfl, rfl⟩⟩, rfl, id, fun _ => rfl, id, fun _ _ => le_rfl⟩
  | dstart init ploaded notBusy committed => exact absurd rfl hstart
  | dstep accepted => exact absurd rfl hstep
  | read isRead d n => exact ⟨⟨rfl, ⟨rfl, rfl, rfl, rfl, rfl⟩⟩, rfl, id, id, id, fun _ _ => le_rfl⟩

/-- Only a PLOAD changes what a result is measured by. -/
theorem sameMeasure_of_exec {s t : State} {i : Instr} (hx : exec i s = .next t)
    (hp : ∀ p, i = .pload p → SameMeasure s (s.loadProfile p)) : SameMeasure s t := by
  by_cases hprof : t.profile = s.profile
  · exact .of_profile hprof
  · obtain ⟨-, -, -, -, hpload, -⟩ := onlyTheListedOperationsWrite s t i hx
    obtain ⟨p, rfl⟩ := hpload (.inl hprof)
    obtain ⟨-, rfl⟩ := execPload_cases hx
    exact hp p rfl

/-! ## The decoder's part, under DSTART and DSTEP -/

/-- DSTART takes the committed samples for its decode (R141). -/
theorem State.CaptureInv.decoderInv_beginDecode {s : State} (h : s.CaptureInv) (hi : s.init = true)
    (hp : s.ploaded = true) (hc : s.stepCount ≠ 0#32) : s.beginDecode.DecoderInv where
  ready := fun _ => ⟨hi, hp⟩
  snapBounded := fun _ => ⟨Nat.one_le_iff_ne_zero.2 fun h0 => hc (BitVec.eq_of_toNat_eq h0), h.countBounded hi⟩
  snapCommitted := fun _ => le_rfl
  cursorBounded := fun _ _ => Nat.zero_le _
  bitsBounded := fun _ => Nat.zero_le _
  codeBounded := fun _ _ => Nat.two_pow_pos _
  waking := fun _ => ⟨rfl, rfl, rfl, rfl⟩
  pairing := nofun

/-- The wake-up step goes to `min(P.wakeupStepCount, SNAP)` (R143). -/
theorem State.DecoderInv.wakeStep {s : State} (h : s.DecoderInv) (hd : s.dstate = .awaitingWakeup) :
    s.wakeStep.DecoderInv := by
  have hbusy : s.busy = true := s.busy_iff.2 (.inl hd)
  have hne := State.busy_ne_idle hbusy
  exact
    { ready := fun _ => h.ready hne
      snapBounded := fun _ => h.snapBounded hne
      snapCommitted := fun _ => h.snapCommitted hbusy
      cursorBounded := fun _ _ => by rw [State.wakeStep_cursor_toNat]; exact min_le_right _ _
      bitsBounded := fun _ => h.bitsBounded hbusy
      codeBounded := fun _ _ => h.codeBounded hne (.inl hbusy)
      waking := nofun
      pairing := fun _ => ⟨0, s.wakeStep_cursor_toNat⟩ }

/-- A shift puts one more bit below the bound of R40 (v). -/
theorem shifted_code_lt {c : Acc} {n : Nat} (b : Bool) (h : c.toNat < 2 ^ min n 64) :
    ((c <<< 1) ||| (if b then 1#64 else 0#64)).toNat < 2 ^ min (n + 1) 64 := by
  rw [shifted_code]
  have hbit : (if b then 1 else 0) ≤ 1 := by cases b <;> decide
  rcases Nat.lt_or_ge n 64 with hn | hn
  · rw [min_eq_left hn.le] at h
    rw [min_eq_left (Nat.succ_le_of_lt hn), Nat.pow_succ]
    exact (Nat.mod_le _ _).trans_lt (by omega)
  · rw [min_eq_right (by omega)]
    exact Nat.mod_lt _ (Nat.two_pow_pos _)

/-- A pair passed by the cursor keeps it a whole number of pairs from where the wake-up step left it (R40 (vi)). -/
theorem State.DecoderInv.pairing_add_two {s : State} (h : s.DecoderInv) (hd : s.dstate = .decodingBits)
    (hpair : s.cursor.toNat + 2 ≤ s.snap.toNat) :
    ∃ k, (s.cursor + 2#32).toNat = min s.profile.wakeupStepCount.toNat s.snap.toNat + 2 * k := by
  obtain ⟨k, hk⟩ := h.pairing hd
  exact ⟨k + 1, by rw [count_add_two hpair]; omega⟩

/-- A bit step counts one bit, shifts one bit in and passes one pair (R151, R154). -/
theorem State.DecoderInv.consumePair {s : State} (h : s.DecoderInv) (hd : s.dstate = .decodingBits)
    (hb : s.bits.toNat < s.profile.bitCount.toNat) (hpair : s.cursor.toNat + 2 ≤ s.snap.toNat) (lo hi : Duration) :
    (s.consumePair lo hi).DecoderInv :=
  have hbits : (s.bits + 1#32).toNat = s.bits.toNat + 1 := bits_add_one hb
  { h with
    cursorBounded := fun _ _ => by simpa [count_add_two hpair] using hpair
    bitsBounded := fun _ => by simpa [hbits] using hb
    codeBounded := fun hne hlive => by
      rw [State.consumePair_code, State.consumePair_bits, hbits]
      exact shifted_code_lt _ (h.codeBounded hne hlive)
    waking := fun hw => by simp [hd] at hw
    pairing := fun _ => h.pairing_add_two hd hpair }

/-- An extra step passes one pair (R155). -/
theorem State.DecoderInv.skipPair {s : State} (h : s.DecoderInv) (hd : s.dstate = .decodingBits)
    (hpair : s.cursor.toNat + 2 ≤ s.snap.toNat) : s.skipPair.DecoderInv :=
  { h with
    cursorBounded := fun _ _ => by simpa [count_add_two hpair] using hpair
    waking := fun hw => by simp [hd] at hw
    pairing := fun _ => h.pairing_add_two hd hpair }

theorem State.finish_busy_dstate (s : State) : s.finish.busy = false ∧ s.finish.dstate ≠ .idle := by
  obtain ⟨-, -, -, -, -, -, -, -, -, -, -, -, hd | hd | hd⟩ := s.finish_frame <;> simp [State.busy, hd]

/-- The finish of a clean window leaves the result as it is; of a tainted one nothing more is asked (R156). -/
theorem State.DecoderInv.finish {s : State} (h : s.DecoderInv) (hbusy : s.busy = true) : s.finish.DecoderInv := by
  have hne := State.busy_ne_idle hbusy
  obtain ⟨-, -, -, -, -, hload, hsnap, hinit, htaint, hcap, -, -, hterm⟩ := s.finish_frame
  have hnot := s.finish_busy_dstate.1
  have hclean : s.finish.busy = true ∨ s.finish.taint = false → s.finish = s.finishClean := by
    rw [hnot, htaint]
    exact fun hlive => State.finish_of_clean (by simpa using hlive)
  exact
    { ready := fun _ => by rw [hinit, hload]; exact h.ready hne
      snapBounded := fun _ => by rw [hsnap, hcap]; exact h.snapBounded hne
      snapCommitted := fun hb => by simp [hnot] at hb
      cursorBounded := fun _ hlive => by rw [hclean hlive]; exact h.cursorBounded hne (.inl hbusy)
      bitsBounded := fun hb => by simp [hnot] at hb
      codeBounded := fun _ hlive => by rw [hclean hlive]; exact h.codeBounded hne (.inl hbusy)
      waking := fun hw => by simp [hw] at hterm
      pairing := fun hw => by simp [hw] at hterm }

theorem State.DecoderInv.resultInv_finish {s : State} (h : s.DecoderInv) (hd : s.dstate = .decodingBits) :
    s.finish.ResultInv := by
  obtain ⟨-, -, -, -, -, -, -, -, htaint, -⟩ := s.finish_frame
  have hclean (ht : s.finish.taint = false) : s.finish = s.finishClean := State.finish_of_clean (htaint ▸ ht)
  constructor
  · intro _ ht
    rw [hclean ht]
    exact h.bitsBounded (s.busy_iff.2 (.inr hd))
  · intro _ ht
    rw [hclean ht]
    exact h.pairing hd

/-- What a DSTEP can do once a buffer is reset, where no read draws (R142). -/
theorem execDstep_cases_of_init {s t : State} (hinit : s.init = true) (h : execDstep s = .next t) :
    s.dstate = .awaitingWakeup ∧ t = s.wakeStep ∨
    (s.dstate = .decodingBits ∧ s.bits.toNat < s.profile.bitCount.toNat ∧ s.cursor.toNat + 2 ≤ s.snap.toNat ∧
      ∃ lo hi, t = s.consumePair lo hi) ∨
    (s.dstate = .decodingBits ∧ s.cursor.toNat + 2 ≤ s.snap.toNat ∧ t = s.skipPair) ∨
    (s.dstate = .decodingBits ∧ t = s.finish) := by
  obtain hwake | ⟨hd, hb, hp, -, n, lo, hi, hn, -, rfl⟩ | ⟨hd, -, hp, rfl⟩ | ⟨hd, n, hn, rfl⟩ := execDstep_cases h
  · exact .inl hwake
  · obtain ⟨rfl, -⟩ := hn hinit
    exact .inr (.inl ⟨hd, hb, hp, lo, hi, rfl⟩)
  · exact .inr (.inr (.inl ⟨hd, by omega, rfl⟩))
  · obtain rfl := hn hinit
    exact .inr (.inr (.inr ⟨hd, rfl⟩))

theorem busy_of_execDstep {s t : State} (h : execDstep s = .next t) : s.busy = true := by
  rw [State.busy_iff]
  obtain ⟨hd, -⟩ | ⟨hd, -⟩ | ⟨hd, -⟩ | ⟨hd, -⟩ := execDstep_cases h <;> simp [hd]

/-- A DSTEP keeps the decoder's clauses and gives those of a result, finished or not. -/
theorem State.DecoderInv.execDstep {s t : State} (h : s.DecoderInv) (hx : execDstep s = .next t) :
    t.DecoderInv ∧ t.ResultInv ∧ t.dstate ≠ .idle := by
  have hbusy := busy_of_execDstep hx
  have hinit := (h.ready (State.busy_ne_idle hbusy)).1
  obtain ⟨hd, rfl⟩ | ⟨hd, hb, hp, lo, hi, rfl⟩ | ⟨hd, hp, rfl⟩ | ⟨hd, rfl⟩ := execDstep_cases_of_init hinit hx
  · have hinv := h.wakeStep hd
    exact ⟨hinv, hinv.resultInv_of_busy rfl, nofun⟩
  · have hinv := h.consumePair hd hb hp lo hi
    exact ⟨hinv, hinv.resultInv_of_busy hbusy, State.busy_ne_idle hbusy⟩
  · have hinv := h.skipPair hd hp
    exact ⟨hinv, hinv.resultInv_of_busy hbusy, State.busy_ne_idle hbusy⟩
  · exact ⟨h.finish hbusy, h.resultInv_finish hd, s.finish_busy_dstate.2⟩

/-! ## Every operation and every step -/

/-- An accepted DSTART or DSTEP gives the whole of R40 (R141). -/
theorem State.Inv.invR40_of_decoder {s t : State} {i : Instr} (h : s.Inv) (hi : i = .dstart ∨ i = .dstep)
    (hx : exec i s = .next t) : t.InvR40 := by
  obtain ⟨hcap, hdec⟩ := State.inv_iff.1 h
  rw [State.invR40_iff, State.inv_iff, and_assoc]
  refine ⟨hcap.exec hx, ?_⟩
  obtain rfl | rfl := hi
  · obtain ⟨hinit, hload, -, hne, rfl⟩ := execDstart_cases hx
    have hinv := hcap.decoderInv_beginDecode hinit hload hne
    exact ⟨hinv, hinv.resultInv_of_busy rfl⟩
  · obtain ⟨hinv, hres, -⟩ := hdec.execDstep hx
    exact ⟨hinv, hres⟩

theorem State.Inv.exec {s t : State} {i : Instr} (h : s.Inv) (hx : exec i s = .next t) : t.Inv := by
  by_cases hi : i = .dstart ∨ i = .dstep
  · exact (h.invR40_of_decoder hi hx).toInv
  · rw [not_or] at hi
    obtain ⟨hcap, hdec⟩ := State.inv_iff.1 h
    refine State.inv_iff.2 ⟨hcap.exec hx, hdec.leave (State.leavesDecoder_exec hx hi.1 hi.2) fun hb => ?_⟩
    refine sameMeasure_of_exec hx ?_
    rintro p rfl
    have hnot := (execPload_cases hx).1
    simp [hb] at hnot

/-- Every operation keeps the whole of R40, but a PLOAD under a result measured otherwise (log 14). -/
theorem State.InvR40.exec {s t : State} {i : Instr} (h : s.InvR40) (hx : exec i s = .next t)
    (hp : ∀ p, i = .pload p → s.dstate ≠ .idle → SameMeasure s (s.loadProfile p)) : t.InvR40 := by
  by_cases hi : i = .dstart ∨ i = .dstep
  · exact h.toInv.invR40_of_decoder hi hx
  · rw [not_or] at hi
    exact State.invR40_iff.2 ⟨h.toInv.exec hx, (State.invR40_iff.1 h).2.leave
      (State.leavesDecoder_exec hx hi.1 hi.2) fun hne => sameMeasure_of_exec hx fun p hip => hp p hip hne⟩

theorem State.Inv.withTrace {s : State} (h : s.Inv) (trace : List Presented) : ({ s with trace } : State).Inv :=
  { h with }

theorem State.InvR40.withTrace {s : State} (h : s.InvR40) (trace : List Presented) :
    ({ s with trace } : State).InvR40 :=
  { h with }

theorem decode_of_receive {p : Presented} {i : Instr} (h : receive p = .ok i) : decode p.word = .ok i := by
  unfold receive at h
  split at h
  · cases h
  · rename_i j hj
    split at h
    · cases h; exact hj
    · cases h

/-- Settles O41: waiting for the next word keeps every clause, and so does every operation. -/
theorem stepKeepsTheInvariant : Obligations.StepKeepsTheInvariant := by
  unfold Obligations.StepKeepsTheInvariant
  intro s t h hstep
  obtain ⟨-, rfl⟩ | ⟨p, rest, i, -, -, hx⟩ := step_cases hstep
  · exact h
  · exact (h.withTrace rest).exec hx

/-- Settles O48, by `State.InvR40.exec` and `State.Inv.invR40_of_decoder`. -/
theorem r40HoldsUntilAPloadAfterTheDecode : Obligations.R40HoldsUntilAPloadAfterTheDecode := by
  unfold Obligations.R40HoldsUntilAPloadAfterTheDecode
  refine ⟨fun s t h hstep hpload => ?_, fun s t h hx => h.invR40_of_decoder (.inl rfl) hx⟩
  obtain ⟨-, rfl⟩ | ⟨first, rest, i, htrace, hrec, hx⟩ := step_cases hstep
  · exact h
  · refine (h.withTrace rest).exec hx ?_
    rintro p rfl hne
    obtain ⟨hbits, hwake⟩ := (hpload first rest p htrace (decode_of_receive hrec)).resolve_left hne
    exact ⟨hbits, hwake⟩

/-- Settles O32: R40 (v) bounds `CODE` by the bits read, before the step and after it, and (iv) bounds those. -/
theorem codeLosesNoBit : Obligations.CodeLosesNoBit := by
  unfold Obligations.CodeLosesNoBit
  refine fun s h hbusy => ⟨fun hwanted hfits => ?_, fun hbits t hx hclean => ?_⟩
  · exact (h.codeBounded (State.busy_ne_idle hbusy) (.inl hbusy)).trans_le
      (Nat.pow_le_pow_right Nat.two_pos (by omega))
  · obtain ⟨hinv, hres, hne⟩ := (State.inv_iff.1 h).2.execDstep hx
    obtain ⟨-, ⟨hprof, -⟩, -, htaint⟩ := execDstep_frame hx
    have ht : t.taint = false := htaint.trans hclean
    have hread := hres.resultBits hne ht
    rw [hprof, hbits] at hread
    exact (hinv.codeBounded hne (.inr ht)).trans_le (Nat.pow_le_pow_right Nat.two_pos (by omega))

/-- Settles O39: the empty memory is canonical, and nothing is asked of a decoder never started. -/
theorem powerOnMeetsTheInvariant : Obligations.PowerOnMeetsTheInvariant := by
  unfold Obligations.PowerOnMeetsTheInvariant
  intro c
  have hcap : (State.powerOn c).CaptureInv := ⟨State.powerOn_smp_wf c, rfl, nofun, nofun⟩
  have hinv : (State.powerOn c).Inv := State.inv_iff.2 ⟨hcap, State.decoderInv_of_idle rfl⟩
  exact ⟨hinv, State.invR40_iff.2 ⟨hinv, State.resultInv_of_idle rfl⟩⟩

end Sys2Proof.Machine

/-! The sample memory and the order of operations: what a read returns after a write (R62, R63), what stays until the
next BCLR (R72), what a decode window holds still (R75), and a presented trace run step by step (R70, R101). -/

namespace Sys2Proof.Machine

/-! ## What an operation does to the committed samples -/

/-- `STEPCOUNT` has not decreased, and every sample committed in `s` still stands in `t` (R24, R25). -/
structure State.KeepsSamples (s t : State) : Prop where
  count   : s.stepCount.toNat ≤ t.stepCount.toNat
  samples : ∀ i, i < s.stepCount.toNat → t.entry i = s.entry i

theorem State.KeepsSamples.of_same {s t : State} (hsmp : t.smp = s.smp) (hcount : t.stepCount = s.stepCount) :
    s.KeepsSamples t where
  count := by rw [hcount]
  samples := fun i _ => by rw [State.entry, State.entry, hsmp]

theorem State.KeepsSamples.trans {s t u : State} (h : s.KeepsSamples t) (h' : t.KeepsSamples u) :
    s.KeepsSamples u where
  count := h.count.trans h'.count
  samples := fun i hi => (h'.samples i (hi.trans_le h.count)).trans (h.samples i hi)

/-- An accepted EDGE writes the entry `STEPCOUNT` and no other (R63, R64). -/
theorem State.entry_noteWindow_commit {s : State} (hw : SampleMem.wf s.smp = true) (k : EdgeKind) (now : Time)
    (j : Nat) : (s.noteWindow.commit k now).entry j =
      if j = s.stepCount.toNat then { level := levelEnded k, duration := now - s.lastEdge } else s.entry j :=
  SampleMem.read_write hw _ _ j

theorem State.keepsSamples_noteWindow_commit {s : State} (hw : SampleMem.wf s.smp = true)
    (hroom : s.stepCount.toNat < s.capacity.val) (k : EdgeKind) (now : Time) :
    s.KeepsSamples (s.noteWindow.commit k now) where
  count := by
    rw [State.commit_stepCount, State.noteWindow_stepCount, count_add_one hroom s.capacity.fits]
    exact Nat.le_succ _
  samples := fun i hi => by rw [State.entry_noteWindow_commit hw, if_neg hi.ne]

theorem State.keepsSamples_edge {s : State} (hw : SampleMem.wf s.smp = true) (hinit : s.init = true) (k : EdgeKind)
    (now : Time) : s.KeepsSamples (s.edge k now) := by
  obtain ⟨hni, -⟩ | ⟨-, -, heq⟩ | ⟨-, -, -, heq⟩ | ⟨-, hroom, -, heq⟩ := s.edge_cases k now
  · simp [hinit] at hni
  · rw [heq]; exact .of_same rfl rfl
  · rw [heq]; exact .of_same rfl rfl
  · rw [heq]; exact State.keepsSamples_noteWindow_commit hw hroom k now

/-- Once the buffer is reset, every operation but BCLR keeps the committed samples (R72 (a), (b)). -/
theorem State.keepsSamples_exec {s t : State} {i : Instr} (hw : SampleMem.wf s.smp = true) (hinit : s.init = true)
    (hx : exec i s = .next t) (hne : i ≠ .bclr) : s.KeepsSamples t := by
  cases State.effect_of_exec hx with
  | edge k now => exact State.keepsSamples_edge hw hinit k now
  | bclr notBusy => exact absurd rfl hne
  | pload p notBusy => exact .of_same rfl rfl
  | dstart init ploaded notBusy committed => exact .of_same rfl rfl
  | dstep accepted =>
    obtain ⟨⟨-, -, hsmp, hcount, -⟩, -⟩ := execDstep_frame accepted
    exact .of_same hsmp hcount
  | read isRead d n => exact .of_same rfl rfl

theorem init_of_exec {s t : State} {i : Instr} (hx : exec i s = .next t) (hne : i ≠ .bclr) : t.init = s.init := by
  obtain ⟨-, -, -, -, -, -, hinit, -⟩ := onlyTheListedOperationsWrite s t i hx
  by_contra hchanged
  exact hne (hinit hchanged)

theorem trace_of_exec {s t : State} {i : Instr} (hx : exec i s = .next t) : t.trace = s.trace := by
  obtain ⟨-, -, -, -, -, -, -, -, -, htrace⟩ := onlyTheListedOperationsWrite s t i hx
  exact htrace

/-- A run that completes begins with an operation that completes. -/
theorem runOps_cons_next {i : Instr} {rest : List Instr} {s t : State} (h : runOps (i :: rest) s = .next t) :
    ∃ u, exec i s = .next u ∧ runOps rest u = .next t := by
  cases hx : exec i s with
  | next u => exact ⟨u, rfl, runOps_cons hx ▸ h⟩
  | fault f => simp [runOps, hx] at h
  | refused r => simp [runOps, hx] at h

/-- By induction on the operations: the invariant keeps the memory canonical and the buffer reset for the next one. -/
theorem State.Inv.keepsSamples_runOps (ops : List Instr) {s t : State} (h : s.Inv) (hinit : s.init = true)
    (hops : .bclr ∉ ops) (hrun : runOps ops s = .next t) : s.KeepsSamples t := by
  induction ops generalizing s with
  | nil =>
    cases hrun
    exact .of_same rfl rfl
  | cons i rest ih =>
    rw [List.mem_cons, not_or] at hops
    obtain ⟨hi, hrest⟩ := hops
    have hne : i ≠ .bclr := Ne.symm hi
    obtain ⟨u, hx, hrun⟩ := runOps_cons_next hrun
    exact (State.keepsSamples_exec h.memCanonical hinit hx hne).trans
      (ih (h.exec hx) ((init_of_exec hx hne).trans hinit) hrest hrun)

/-- Settles O44, by `State.Inv.keepsSamples_runOps`. -/
theorem committedSamplesStayUntilBclr : Obligations.CommittedSamplesStayUntilBclr := by
  unfold Obligations.CommittedSamplesStayUntilBclr
  intro ops s t h hinit hops hrun
  obtain ⟨hcount, hsamples⟩ := h.keepsSamples_runOps ops hinit hops hrun
  exact ⟨hcount, hsamples⟩

/-! ## A decode window -/

theorem snap_of_execDstep {s t : State} (h : execDstep s = .next t) : t.snap = s.snap := by
  obtain ⟨-, rfl⟩ | ⟨-, -, -, -, n, lo, hi, -, -, rfl⟩ | ⟨-, -, -, rfl⟩ | ⟨-, n, -, rfl⟩ := execDstep_cases h
  · rfl
  · rfl
  · rfl
  · obtain ⟨-, -, -, -, -, -, hsnap, -⟩ := ({ s with draws := n } : State).finish_frame
    exact hsnap

/-- What a busy decoder decodes by and how far it reads is locked (R72 (c), R75): BCLR, PLOAD and DSTART are refused. -/
theorem locked_of_busy {s t : State} {i : Instr} (hbusy : s.busy = true) (hx : exec i s = .next t) :
    i ≠ .bclr ∧ t.profile = s.profile ∧ t.snap = s.snap := by
  cases State.effect_of_exec hx with
  | edge k now =>
    obtain ⟨⟨hprof, -⟩, ⟨-, ⟨hsnap, -, -, -, -⟩⟩, -, -⟩ := s.edge_frame k now
    exact ⟨by cases k <;> simp [edgeOp], hprof, hsnap⟩
  | bclr notBusy => simp [hbusy] at notBusy
  | pload p notBusy => simp [hbusy] at notBusy
  | dstart init ploaded notBusy committed => simp [hbusy] at notBusy
  | dstep accepted =>
    obtain ⟨-, ⟨hprof, -⟩, -, -⟩ := execDstep_frame accepted
    exact ⟨nofun, hprof, snap_of_execDstep accepted⟩
  | read isRead d n => exact ⟨by obtain ⟨r, rfl⟩ | ⟨idx, rfl⟩ := isRead <;> nofun, rfl, rfl⟩

/-- Settles O45: profile and `SNAP` are locked, and the entries below `SNAP` are committed (R40 (ii)), so they stay. -/
theorem aDecodeSeesOneProfileAndOneBuffer : Obligations.ADecodeSeesOneProfileAndOneBuffer := by
  unfold Obligations.ADecodeSeesOneProfileAndOneBuffer
  intro s t i hinv hbusy hx
  obtain ⟨hne, hprof, hsnap⟩ := locked_of_busy hbusy hx
  obtain ⟨hinit, -⟩ := hinv.ready (State.busy_ne_idle hbusy)
  have hkeeps := State.keepsSamples_exec hinv.memCanonical hinit hx hne
  exact ⟨hprof, hsnap, fun j hj => hkeeps.samples j (hj.trans_le (hinv.snapCommitted hbusy))⟩

/-! ## Read after write -/

theorem exec_rdsmp_of_init {s : State} {idx : Count} (hinit : s.init = true) (hidx : idx.toNat < s.capacity.val) :
    exec (.rdsmp idx) s = .next (s.setRead (.sample (sampleWord (s.entry idx.toNat)))) := by
  simp [exec, execRdsmp, State.smpRead_of_init hidx hinit, State.entry]

/-- A second read returns the same and leaves the state as it is (R62). -/
theorem exec_rdsmp_again {s : State} {idx : Count} (hinit : s.init = true) (hidx : idx.toNat < s.capacity.val) :
    exec (.rdsmp idx) (s.setRead (.sample (sampleWord (s.entry idx.toNat)))) =
      .next (s.setRead (.sample (sampleWord (s.entry idx.toNat)))) :=
  exec_rdsmp_of_init (s := s.setRead (.sample (sampleWord (s.entry idx.toNat)))) hinit hidx

/-- The level is bit 64 of a sample word, the duration the bits below it (R96). -/
theorem sampleWord_toNat (x : Sample) :
    (sampleWord x).toNat = (levelBit x.level).toNat * 2 ^ 64 + x.duration.toNat := by
  rw [sampleWord, BitVec.toNat_append, ← Nat.shiftLeft_add_eq_or_of_lt x.duration.isLt, Nat.shiftLeft_eq]

/-- Settles O38: each read returns the entry of its state, and the commit writes the entry `STEPCOUNT` only. -/
theorem aReadReturnsTheLatestWrite : Obligations.AReadReturnsTheLatestWrite := by
  unfold Obligations.AReadReturnsTheLatestWrite
  intro s k now idx hw hinit hseed hroom hidx
  have hedge : exec (edgeOp k now) s = .next (s.noteWindow.commit k now) := by
    rw [exec_edgeOp, State.edge_of_seeded hinit hseed hroom]
  have hentry := State.entry_noteWindow_commit hw k now idx.toNat
  have hread := exec_rdsmp_of_init (s := s.noteWindow.commit k now) hinit hidx
  have hagain := exec_rdsmp_again (s := s.noteWindow.commit k now) hinit hidx
  refine ⟨_, _, _, _, ?_, rfl, hagain, exec_rdsmp_of_init hinit hidx, rfl, ?_, ?_⟩
  · rw [runOps_cons hedge, runOps_cons hread, runOps]
  · rintro rfl
    rw [hentry, if_pos rfl, sampleWord_toNat]
    cases k <;> simp [levelEnded, levelBit]
  · intro hne
    rw [hentry, if_neg fun heq => hne (BitVec.eq_of_toNat_eq heq)]

/-! ## One step -/

theorem receive_of_decode {p : Presented} {i : Instr} (hd : decode p.word = .ok i)
    (hmay : mayIssue p.agent i = true) : receive p = .ok i := by
  simp [receive, hd, hmay]

theorem step_of_receive {s : State} {p : Presented} {rest : List Presented} {i : Instr} (htrace : s.trace = p :: rest)
    (hrec : receive p = .ok i) : step s = exec i { s with trace := rest } := by
  simp [step, takeNext, htrace, hrec]

/-- Settles O7: the word is received as the operation, and the step runs what it receives. -/
theorem stepRunsThePresentedOperation : Obligations.StepRunsThePresentedOperation := by
  unfold Obligations.StepRunsThePresentedOperation
  intro s a word rest i htrace hd hmay
  exact step_of_receive htrace (receive_of_decode hd hmay)

/-! ## An operation's own word -/

theorem takeProfile_payloadBytes (p : Profile) (rest : List Byte) :
    takeProfile (payloadBytes (.pload p) ++ rest) = some (p, rest) := by
  simp only [payloadBytes, takeProfile, List.append_assoc, takeCount_leBytes, takeTime_leBytes, Option.bind_eq_bind,
    Option.bind_some]
  rfl

/-- The decoder reads an operation's word and hands back what stands above it (R90, R91). -/
theorem decodePrefix_encode (i : Instr) (hwf : i.wellFormed = true) (rest : List Byte) :
    decodePrefix (encode i ++ rest) = .ok (i, rest) := by
  cases i with
  | edgeF now =>
    simp [encode, opcodeByte, payloadBytes, decodePrefix, opcodeOfByte, takeTime_leBytes, withPayload]
  | edgeR now =>
    simp [encode, opcodeByte, payloadBytes, decodePrefix, opcodeOfByte, takeTime_leBytes, withPayload]
  | bclr => rfl
  | pload p =>
    simp [encode, opcodeByte, decodePrefix, opcodeOfByte, takeProfile_payloadBytes, withPayload]
  | dstart => rfl
  | dstep => rfl
  | rdreg r =>
    have hop : opcodeOfByte (opcodeByte (.rdreg r)) = some (.rdreg r) := by revert r; decide
    cases hreg : regOfNumber r with
    | none =>
      obtain rfl | rfl | rfl := (regOfNumber_none_iff r).1 hreg <;> simp [Instr.wellFormed] at hwf
    | some g => simp [encode, payloadBytes, decodePrefix, hop, hreg]
  | rdsmp idx =>
    simp [encode, opcodeByte, payloadBytes, decodePrefix, opcodeOfByte, takeCount_leBytes, withPayload]

theorem decode_encode {i : Instr} (hwf : i.wellFormed = true) : decode (encode i) = .ok i := by
  have h := decodePrefix_encode i hwf []
  rw [List.append_nil] at h
  simp [decode, h]

theorem mayIssue_ownAgent (i : Instr) : mayIssue (ownAgent i) i = true := by
  cases i <;> rfl

theorem receive_presentOwn {i : Instr} (hwf : i.wellFormed = true) : receive (presentOwn i) = .ok i :=
  receive_of_decode (decode_encode hwf) (mayIssue_ownAgent i)

/-! ## No operation looks at the words still waiting -/

/-- `s` with other words waiting. -/
def State.withTrace (s : State) (trace : List Presented) : State := { s with trace }

/-- Apply `f` to the next state, if there is one. -/
def mapNext (f : State → State) (o : Host.Outcome State Fault Refusal) : Host.Outcome State Fault Refusal :=
  match o with
  | .next t => .next (f t)
  | .fault r => .fault r
  | .refused r => .refused r

theorem mapNext_next (f : State → State) (t : State) : mapNext f (.next t) = .next (f t) := rfl

section
variable (s : State) (trace : List Presented)

theorem State.edge_withTrace (k : EdgeKind) (now : Time) :
    (s.withTrace trace).edge k now = (s.edge k now).withTrace trace := by
  unfold State.edge
  simp only [apply_ite (State.withTrace · trace)]
  rfl

theorem State.finish_withTrace : (s.withTrace trace).finish = s.finish.withTrace trace := by
  unfold State.finish
  rw [apply_ite (State.withTrace · trace)]
  rfl

theorem State.takePair_withTrace (lo hi : Duration) :
    (s.withTrace trace).takePair lo hi = (s.takePair lo hi).withTrace trace := by
  unfold State.takePair
  rw [apply_ite (State.withTrace · trace), ← State.finish_withTrace]
  rfl

theorem State.smpRead_withTrace (i : Nat) :
    (s.withTrace trace).smpRead i = (s.smpRead i).map (Prod.map id (State.withTrace · trace)) := by
  unfold State.smpRead
  simp only [apply_ite (Option.map _)]
  rfl

theorem State.pairLeft_withTrace : (s.withTrace trace).pairLeft = s.pairLeft := rfl
theorem State.lowIndex_withTrace : (s.withTrace trace).lowIndex = s.lowIndex := rfl
theorem State.highIndex_withTrace : (s.withTrace trace).highIndex = s.highIndex := rfl

theorem bitStep_withTrace : bitStep (s.withTrace trace) = mapNext (State.withTrace · trace) (bitStep s) := by
  have hlow := s.smpRead_withTrace trace s.lowIndex
  simp only [bitStep, State.pairLeft_withTrace, State.lowIndex_withTrace, State.finish_withTrace, hlow,
    apply_ite (mapNext _)]
  refine if_congr Iff.rfl ?_ rfl
  cases s.smpRead s.lowIndex with
  | none => rfl
  | some read =>
    obtain ⟨lo, u⟩ := read
    have hhigh := u.smpRead_withTrace trace u.highIndex
    simp only [Option.map_some, Prod.map_apply, State.highIndex_withTrace, hhigh]
    cases u.smpRead u.highIndex with
    | none => rfl
    | some read =>
      obtain ⟨hi, v⟩ := read
      exact congrArg Host.Outcome.next (v.takePair_withTrace trace lo.duration hi.duration)

theorem extraStep_withTrace :
    extraStep (s.withTrace trace) = mapNext (State.withTrace · trace) (extraStep s) := by
  unfold extraStep
  rw [apply_ite (mapNext _), mapNext_next, mapNext_next, ← State.finish_withTrace]
  rfl

theorem execDstep_withTrace :
    execDstep (s.withTrace trace) = mapNext (State.withTrace · trace) (execDstep s) := by
  have hd : (s.withTrace trace).dstate = s.dstate := rfl
  unfold execDstep
  cases h : s.dstate <;> simp only [hd, h]
  case decodingBits =>
    rw [apply_ite (mapNext _), ← bitStep_withTrace, ← extraStep_withTrace]
    rfl
  all_goals rfl

/-- An operation does the same whatever words still wait, and leaves them waiting (log 4). -/
theorem exec_withTrace (i : Instr) :
    exec i (s.withTrace trace) = mapNext (State.withTrace · trace) (exec i s) := by
  cases i with
  | edgeF now => exact congrArg Host.Outcome.next (s.edge_withTrace trace .falling now)
  | edgeR now => exact congrArg Host.Outcome.next (s.edge_withTrace trace .rising now)
  | bclr =>
    simp only [exec, execBclr, apply_ite (mapNext _)]
    rfl
  | pload p =>
    simp only [exec, execPload, apply_ite (mapNext _)]
    rfl
  | dstart =>
    simp only [exec, execDstart, apply_ite (mapNext _)]
    rfl
  | dstep => exact execDstep_withTrace s trace
  | rdreg r =>
    simp only [exec, execRdreg]
    cases regOfNumber r with
    | none => rfl
    | some g =>
      simp only [apply_ite (mapNext _)]
      rfl
  | rdsmp idx =>
    simp only [exec, execRdsmp, State.smpRead_withTrace]
    cases s.smpRead idx.toNat <;> rfl

end

/-! ## A presented trace -/

theorem run_succ_of_step_next {s t : State} (h : step s = .next t) (n : Nat) :
    Host.Core.run Sys2Proof.core (n + 1) s = Host.Core.run Sys2Proof.core n t := by
  have hcore : Sys2Proof.core.step s = .next t := h
  simp [Host.Core.run, hcore]

theorem run_succ_of_step_refused {s : State} {r : Refusal} (h : step s = .refused r) (n : Nat) :
    Host.Core.run Sys2Proof.core (n + 1) s = .refused r := by
  have hcore : Sys2Proof.core.step s = .refused r := h
  simp [Host.Core.run, hcore]

/-- With an operation presented first, the step is that operation, the others still waiting. -/
theorem step_presentAll_cons {i : Instr} (hwf : i.wellFormed = true) (rest : List Instr) (s : State) :
    step (s.withTrace (presentAll (i :: rest))) = mapNext (State.withTrace · (presentAll rest)) (exec i s) :=
  (step_of_receive rfl (receive_presentOwn hwf)).trans (exec_withTrace s (presentAll rest) i)

/-- Settles O47, by induction on the operations: a step takes the first and leaves the others waiting. -/
theorem aTraceRunsItsOperationsInOrder : Obligations.ATraceRunsItsOperationsInOrder := by
  unfold Obligations.ATraceRunsItsOperationsInOrder
  intro ops
  induction ops with
  | nil =>
    intro s _ htrace
    rw [presentAll, List.map_nil, ← htrace]
    rfl
  | cons i rest ih =>
    intro s hwf htrace
    have hstep := step_presentAll_cons (hwf i List.mem_cons_self) rest s
    cases hx : exec i s with
    | next t =>
      rw [hx] at hstep
      have hrest := ih t (fun j hj => hwf j (List.mem_cons_of_mem i hj)) ((trace_of_exec hx).trans htrace)
      rw [runOps_cons hx, ← hrest]
      exact run_succ_of_step_next hstep rest.length
    | fault f => nomatch f
    | refused r =>
      rw [hx] at hstep
      rw [show runOps (i :: rest) s = .refused r by simp [runOps, hx]]
      exact run_succ_of_step_refused hstep rest.length

end Sys2Proof.Machine

/-! Operation words (R90 to R95): the decoder and the encoder are inverse to each other, where the fields of a word
stand, and what a presented word that is reserved, or comes from another agent, does (R94, R103). -/

namespace Sys2Proof

/-! ## The opcode byte -/

/-- The byte of an opcode, the column "opcode" of R92. -/
def Opcode.toByte (o : Opcode) : Byte :=
  match o with
  | .edgeF   => 0x00#8
  | .edgeR   => 0x01#8
  | .bclr    => 0x10#8
  | .pload   => 0x20#8
  | .dstart  => 0x30#8
  | .dstep   => 0x31#8
  | .rdreg r => 0x4#4 ++ r
  | .rdsmp   => 0x50#8

/-- A byte `0x4r` is the opcode of RDREG `r` (R92). -/
theorem eq_toByte_rdreg {op : Byte} (h : op.extractLsb' 4 4 = 0x4#4) :
    op = (Opcode.rdreg (op.extractLsb' 0 4)).toByte := by
  rw [Opcode.toByte, ← h, BitVec.extractLsb'_append_extractLsb'_eq_extractLsb' (by rfl)]
  exact BitVec.extractLsb'_eq_self.symm

/-- The opcode map read backwards: each opcode has one byte, and only that byte stands for it. -/
theorem opcodeOfByte_eq_some_iff {op : Byte} {o : Opcode} : opcodeOfByte op = some o ↔ op = o.toByte := by
  constructor
  · intro h
    unfold opcodeOfByte at h
    split_ifs at h with h00 h01 h10 h20 h30 h31 h4 h50 <;> cases h
    exacts [h00, h01, h10, h20, h30, h31, eq_toByte_rdreg h4, h50]
  · rintro rfl
    cases o with
    | rdreg r => revert r; decide
    | _ => rfl

theorem toNat_toByte_rdreg (r : BitVec 4) : (Opcode.rdreg r).toByte.toNat = 64 + r.toNat := by
  revert r; decide

/-- R94: the bytes in the gaps of the opcode map. -/
theorem opcodeOfByte_reserved {op : Byte}
    (h : 0x02 ≤ op.toNat ∧ op.toNat ≤ 0x0F ∨ 0x11 ≤ op.toNat ∧ op.toNat ≤ 0x1F ∨
      0x21 ≤ op.toNat ∧ op.toNat ≤ 0x2F ∨ 0x32 ≤ op.toNat ∧ op.toNat ≤ 0x3F ∨ 0x51 ≤ op.toNat) :
    opcodeOfByte op = none := by
  cases hop : opcodeOfByte op with
  | none => rfl
  | some o =>
    obtain rfl := opcodeOfByte_eq_some_iff.1 hop
    cases o with
    | rdreg r =>
      rw [toNat_toByte_rdreg] at h
      omega
    | _ => simp [Opcode.toByte] at h

/-! ## The decoder gives back what the encoder wrote, and the other way round -/

/-- Settles O1, by `decode_encode`. -/
theorem decodeOfEncodeIsTheOperation : Obligations.DecodeOfEncodeIsTheOperation := by
  unfold Obligations.DecodeOfEncodeIsTheOperation
  intro i hwf
  exact Machine.decode_encode hwf

theorem takeProfile_eq_some {p : Profile} {bytes rest : List Byte} (h : takeProfile bytes = some (p, rest)) :
    bytes = payloadBytes (.pload p) ++ rest := by
  simp only [takeProfile, Option.bind_eq_bind, Option.bind_eq_some_iff, Prod.exists] at h
  obtain ⟨bc, b1, hbc, ex, b2, hex, wk, b3, hwk, z1, b4, hz1, nc, b5, hnc, sp, b6, hsp, hp⟩ := h
  cases hp
  rw [takeCount_eq_some hbc, takeCount_eq_some hex, takeCount_eq_some hwk, takeTime_eq_some hz1,
    takeTime_eq_some hnc, takeTime_eq_some hsp]
  simp only [payloadBytes, List.append_assoc]

theorem withPayload_eq_ok {α : Type} {field : Option (α × List Byte)} {mk : α → Instr} {i : Instr}
    {rest : List Byte} (h : withPayload field mk = .ok (i, rest)) : ∃ v, field = some (v, rest) ∧ i = mk v := by
  cases field with
  | none => cases h
  | some taken => cases h; exact ⟨_, rfl, rfl⟩

theorem wellFormed_rdreg_of_regOfNumber {r : BitVec 4} {g : Reg} (h : regOfNumber r = some g) :
    (Instr.rdreg r).wellFormed = true := by
  have hne : ¬ (r = 7#4 ∨ r = 14#4 ∨ r = 15#4) := by simp [← regOfNumber_none_iff, h]
  simpa [Instr.wellFormed, not_or, and_assoc] using hne

/-- What the decoder has read is the word of the operation it answers, which is well-formed. -/
theorem eq_encode_append_of_decodePrefix {bytes rest : List Byte} {i : Instr}
    (h : decodePrefix bytes = .ok (i, rest)) : bytes = encode i ++ rest ∧ i.wellFormed = true := by
  cases bytes with
  | nil => cases h
  | cons op above =>
    cases hop : opcodeOfByte op with
    | none => simp [decodePrefix, hop] at h
    | some o =>
      simp only [decodePrefix, hop] at h
      obtain rfl := opcodeOfByte_eq_some_iff.1 hop
      cases o with
      | edgeF =>
        obtain ⟨now, hnow, rfl⟩ := withPayload_eq_ok h
        exact ⟨congrArg _ (takeTime_eq_some hnow), rfl⟩
      | edgeR =>
        obtain ⟨now, hnow, rfl⟩ := withPayload_eq_ok h
        exact ⟨congrArg _ (takeTime_eq_some hnow), rfl⟩
      | bclr => cases h; exact ⟨rfl, rfl⟩
      | pload =>
        obtain ⟨p, hp, rfl⟩ := withPayload_eq_ok h
        exact ⟨congrArg _ (takeProfile_eq_some hp), rfl⟩
      | dstart => cases h; exact ⟨rfl, rfl⟩
      | dstep => cases h; exact ⟨rfl, rfl⟩
      | rdreg r =>
        cases hreg : regOfNumber r with
        | none => simp [hreg] at h
        | some g =>
          simp only [hreg] at h
          cases h
          exact ⟨rfl, wellFormed_rdreg_of_regOfNumber hreg⟩
      | rdsmp =>
        obtain ⟨idx, hidx, rfl⟩ := withPayload_eq_ok h
        exact ⟨congrArg _ (takeCount_eq_some hidx), rfl⟩

theorem decodePrefix_of_decode {word : List Byte} {i : Instr} (h : decode word = .ok i) :
    decodePrefix word = .ok (i, []) := by
  unfold decode at h
  split at h
  · cases h
  · cases h; assumption
  · cases h

/-- Settles O2: a word that decodes is read to its end, so nothing stands above the operation's own word. -/
theorem encodeOfDecodeIsTheWord : Obligations.EncodeOfDecodeIsTheWord := by
  unfold Obligations.EncodeOfDecodeIsTheWord
  intro word i h
  obtain ⟨hword, hwf⟩ := eq_encode_append_of_decodePrefix (decodePrefix_of_decode h)
  rw [List.append_nil] at hword
  exact ⟨hword.symm, hwf⟩

/-- Settles O6: each word is its operation's, so O1 applies. -/
theorem writtenOutWordsDecode : Obligations.WrittenOutWordsDecode := by
  unfold Obligations.WrittenOutWordsDecode
  exact ⟨decodeOfEncodeIsTheOperation (.edgeF 1000000#64) rfl, decodeOfEncodeIsTheOperation (.edgeR 1004450#64) rfl,
    decodeOfEncodeIsTheOperation .bclr rfl, decodeOfEncodeIsTheOperation (.pload ⟨4, 12, 2, 1000, 2500, 10000⟩) rfl,
    decodeOfEncodeIsTheOperation .dstart rfl, decodeOfEncodeIsTheOperation .dstep rfl,
    decodeOfEncodeIsTheOperation (.rdreg 4#4) rfl, decodeOfEncodeIsTheOperation (.rdsmp 3#32) rfl⟩

/-! ## The length of a word, and its fields -/

/-- Every operation's word has the total bits of the format its opcode byte names (R90, R91). -/
theorem wordLength (i : Instr) : Laws.WordLength.Statement i := by
  cases i with
  | edgeF now => exact Laws.WordLength.edgeF now
  | edgeR now => exact Laws.WordLength.edgeR now
  | bclr => exact Laws.WordLength.bclr
  | pload p => exact Laws.WordLength.pload p
  | dstart => exact Laws.WordLength.dstart
  | dstep => exact Laws.WordLength.dstep
  | rdreg r => exact Laws.WordLength.rdreg r
  | rdsmp idx => exact Laws.WordLength.rdsmp idx

theorem encode_length_mul_eight {i : Instr} {o : Opcode} (h : opcodeByte i = o.toByte) :
    (encode i).length * 8 = (opcodeFormat o).bits := by
  obtain ⟨o', ho', hbits⟩ := wordLength i
  obtain rfl : o' = o := Option.some.inj (ho'.symm.trans (opcodeOfByte_eq_some_iff.2 h))
  exact hbits

/-- Settles O5: both words are words of operations, whose lengths follow from the byte they share. -/
theorem opcodeByteFixesTheLength : Obligations.OpcodeByteFixesTheLength := by
  unfold Obligations.OpcodeByteFixesTheLength
  intro op above above' i i' h h'
  obtain ⟨hword, -⟩ := encodeOfDecodeIsTheWord _ _ h
  obtain ⟨hword', -⟩ := encodeOfDecodeIsTheWord _ _ h'
  obtain ⟨hop, rfl⟩ := List.cons.inj hword
  obtain ⟨hop', rfl⟩ := List.cons.inj hword'
  obtain ⟨o, ho, -⟩ := wordLength i
  have hbyte : op = o.toByte := hop ▸ opcodeOfByte_eq_some_iff.1 ho
  have hlen := encode_length_mul_eight (hop.trans hbyte)
  have hlen' := encode_length_mul_eight (hop'.trans hbyte)
  simp only [encode, List.length_cons] at hlen hlen'
  omega

theorem wordNumber_encode (i : Instr) :
    wordNumber (encode i) = (opcodeByte i).toNat + 2 ^ 8 * wordNumber (payloadBytes i) := rfl

theorem wordNumber_leBytes_count (c : Count) : wordNumber (leBytes 4 c.toNat) = c.toNat := by
  rw [wordNumber_leBytes, Nat.mod_eq_of_lt (show c.toNat < 256 ^ 4 from c.isLt)]

theorem wordNumber_leBytes_time (t : Time) : wordNumber (leBytes 8 t.toNat) = t.toNat := by
  rw [wordNumber_leBytes, Nat.mod_eq_of_lt (show t.toNat < 256 ^ 8 from t.isLt)]

/-- The payload of format P as one number: each field above the one before it, in the order of R91. -/
theorem wordNumber_payloadBytes_pload (p : Profile) :
    wordNumber (payloadBytes (.pload p)) =
      p.bitCount.toNat + 2 ^ 32 * (p.expectedStepCount.toNat + 2 ^ 32 * (p.wakeupStepCount.toNat +
        2 ^ 32 * (p.zeroOneThreshold.toNat + 2 ^ 64 * (p.noiseCeiling.toNat +
          2 ^ 64 * p.separatorThreshold.toNat)))) := by
  simp only [payloadBytes, wordNumber_append, leBytes_length, wordNumber_leBytes_count, wordNumber_leBytes_time,
    Nat.reducePow]

/-- The fields of format P at their bits (R91). -/
theorem pload_fields (p : Profile) :
    wordNumber (encode (.pload p)) % 2 ^ 8 = 0x20 ∧
    wordNumber (encode (.pload p)) / 2 ^ 8 % 2 ^ 32 = p.bitCount.toNat ∧
    wordNumber (encode (.pload p)) / 2 ^ 40 % 2 ^ 32 = p.expectedStepCount.toNat ∧
    wordNumber (encode (.pload p)) / 2 ^ 72 % 2 ^ 32 = p.wakeupStepCount.toNat ∧
    wordNumber (encode (.pload p)) / 2 ^ 104 % 2 ^ 64 = p.zeroOneThreshold.toNat ∧
    wordNumber (encode (.pload p)) / 2 ^ 168 % 2 ^ 64 = p.noiseCeiling.toNat ∧
    wordNumber (encode (.pload p)) / 2 ^ 232 = p.separatorThreshold.toNat := by
  have hbc := p.bitCount.isLt
  have hex := p.expectedStepCount.isLt
  have hwk := p.wakeupStepCount.isLt
  have hz1 := p.zeroOneThreshold.isLt
  have hnc := p.noiseCeiling.isLt
  have hop : (opcodeByte (.pload p)).toNat = 0x20 := rfl
  rw [wordNumber_encode, wordNumber_payloadBytes_pload, hop]
  refine ⟨?_, ?_, ?_, ?_, ?_, ?_, ?_⟩ <;> omega

/-- Settles O3: the word is the opcode byte with the payload above bit 7, the payload its fields one above another. -/
theorem wordFieldsStandAtTheirBits : Obligations.WordFieldsStandAtTheirBits := by
  unfold Obligations.WordFieldsStandAtTheirBits
  refine ⟨fun now => ⟨encode_length_mul_eight (o := .edgeF) rfl, ?_⟩,
    fun now => ⟨encode_length_mul_eight (o := .edgeR) rfl, ?_⟩, ⟨rfl, rfl⟩, ⟨rfl, rfl⟩, ⟨rfl, rfl⟩,
    fun p => ⟨encode_length_mul_eight (o := .pload) rfl, pload_fields p⟩,
    fun r => ⟨rfl, ?_⟩, fun idx => ⟨encode_length_mul_eight (o := .rdsmp) rfl, ?_⟩⟩
  · have hop : (opcodeByte (.edgeF now)).toNat = 0 := rfl
    rw [wordNumber_encode, payloadBytes, wordNumber_leBytes_time, hop]
    omega
  · have hop : (opcodeByte (.edgeR now)).toNat = 1 := rfl
    rw [wordNumber_encode, payloadBytes, wordNumber_leBytes_time, hop]
    omega
  · have hop : (opcodeByte (.rdreg r)).toNat = 64 + r.toNat := toNat_toByte_rdreg r
    rw [wordNumber_encode, payloadBytes, wordNumber, hop]
    omega
  · have hop : (opcodeByte (.rdsmp idx)).toNat = 0x50 := rfl
    rw [wordNumber_encode, payloadBytes, wordNumber_leBytes_count, hop]
    omega

end Sys2Proof

namespace Sys2Proof.Machine

/-! ## Words that are refused -/

theorem step_of_receive_error {s : State} {p : Presented} {rest : List Presented} {r : Refusal}
    (htrace : s.trace = p :: rest) (hrec : receive p = .error r) : step s = .refused r := by
  simp [step, takeNext, htrace, hrec]

theorem receive_reservedOpcode {op : Byte} (h : opcodeOfByte op = none) (a : Agent) (payload : List Byte) :
    receive { agent := a, word := op :: payload } = .error .reservedOpcode := by
  simp [receive, decode, decodePrefix, h, refusalOf]

theorem receive_reservedRegister {r : BitVec 4} (h : regOfNumber r = none) (a : Agent) (payload : List Byte) :
    receive { agent := a, word := (Opcode.rdreg r).toByte :: payload } = .error .reservedRegister := by
  have hop : opcodeOfByte (Opcode.rdreg r).toByte = some (.rdreg r) := opcodeOfByte_eq_some_iff.2 rfl
  simp [receive, decode, decodePrefix, hop, h, refusalOf]

/-- Settles O4: a reserved encoding is no operation, which is found out before the agent is looked at. -/
theorem reservedEncodingsAreRefused : Obligations.ReservedEncodingsAreRefused := by
  unfold Obligations.ReservedEncodingsAreRefused
  intro s a op payload rest htrace
  refine ⟨fun hop => ?_, ?_⟩
  · exact step_of_receive_error htrace (receive_reservedOpcode (opcodeOfByte_reserved hop) a payload)
  · rintro (rfl | rfl | rfl)
    · exact step_of_receive_error htrace (receive_reservedRegister (r := 7#4) rfl a payload)
    · exact step_of_receive_error htrace (receive_reservedRegister (r := 14#4) rfl a payload)
    · exact step_of_receive_error htrace (receive_reservedRegister (r := 15#4) rfl a payload)

/-! ## Agents -/

/-- An operation's own word is run from the agents that may issue it, and refused from any other. -/
theorem step_encode {s : State} {a : Agent} {i : Instr} {rest : List Presented} {allowed : Prop}
    (htrace : s.trace = { agent := a, word := encode i } :: rest) (hwf : i.wellFormed = true)
    (hmay : mayIssue a i = true ↔ allowed) :
    (¬ allowed → step s = .refused .wrongAgent) ∧ (allowed → step s = exec i { s with trace := rest }) := by
  have hd : decode (encode i) = .ok i := decode_encode hwf
  rw [← hmay]
  refine ⟨fun h => ?_, fun h => stepRunsThePresentedOperation s a (encode i) rest i htrace hd h⟩
  exact step_of_receive_error htrace (by simp [receive, hd, h])

/-- EDGE is what the interrupt context may issue, and it may issue nothing else (R103, R214). -/
theorem interrupt_iff_edge_of_mayIssue {a : Agent} {i : Instr} (h : mayIssue a i = true) :
    contextOf a = .interrupt ↔ ∃ now, i = .edgeF now ∨ i = .edgeR now := by
  have hcontext : contextOf a = .interrupt ↔ a = .edgeCapture := by cases a <;> simp [contextOf]
  rw [hcontext]
  cases i with
  | edgeF now => exact iff_of_true (beq_iff_eq.1 h) ⟨now, .inl rfl⟩
  | edgeR now => exact iff_of_true (beq_iff_eq.1 h) ⟨now, .inr rfl⟩
  | _ => exact iff_of_false (by rintro rfl; cases h) (by simp)

theorem exec_dstep_of_not_busy {s : State} (h : s.busy = false) : exec .dstep s = .refused .decoderNotBusy := by
  rw [exec_dstep]
  unfold execDstep
  cases hd : s.dstate with
  | awaitingWakeup => simp [State.busy, hd] at h
  | decodingBits => simp [State.busy, hd] at h
  | _ => rfl

/-- Settles O8: each operation's agents are those of `mayIssue`. -/
theorem onlyTheNamedAgentMayIssue : Obligations.OnlyTheNamedAgentMayIssue := by
  unfold Obligations.OnlyTheNamedAgentMayIssue
  intro s a i rest htrace hwf
  have hstep {allowed : Prop} := step_encode (allowed := allowed) htrace hwf
  refine ⟨fun hcross => ?_, ?_, ?_, ?_, ?_⟩
  · exact (hstep Iff.rfl).1 fun hmay => hcross (interrupt_iff_edge_of_mayIssue hmay)
  · rintro now (rfl | rfl)
    · exact hstep beq_iff_eq
    · exact hstep beq_iff_eq
  · rintro rfl
    obtain ⟨hother, hown⟩ := hstep (allowed := a = .protocolDecoder) beq_iff_eq
    exact ⟨hother, fun ha hbusy => (hown ha).trans (exec_dstep_of_not_busy hbusy), fun ha _ => hown ha⟩
  · rintro p (rfl | rfl | rfl)
    · exact hstep beq_iff_eq
    · exact hstep beq_iff_eq
    · exact hstep beq_iff_eq
  · rintro r idx (rfl | rfl)
    · simpa only [not_or] using hstep (allowed := a = .captureOwner ∨ a = .collaborator) (by simp [mayIssue])
    · simpa only [not_or] using hstep (allowed := a = .captureOwner ∨ a = .collaborator) (by simp [mayIssue])

end Sys2Proof.Machine

/-! The samples a burst of edges commits, as many as the buffer holds (R102, R128). -/

namespace Sys2Proof.Machine

/-! ## The samples a buffer has committed -/

/-- The committed samples, in the order they were committed (R24, R25). -/
def State.committedSamples (s : State) : List Sample := (List.range s.stepCount.toNat).map s.entry

@[simp] theorem State.committedSamples_length (s : State) : s.committedSamples.length = s.stepCount.toNat := by
  simp [State.committedSamples]

theorem State.entry_of_getElem?_committedSamples {s : State} {j : Nat} {x : Sample}
    (h : s.committedSamples[j]? = some x) : s.entry j = x := by
  obtain ⟨_, hi, rfl⟩ : ∃ i, (List.range s.stepCount.toNat)[j]? = some i ∧ s.entry i = x := by
    simpa [State.committedSamples] using h
  obtain ⟨_, rfl⟩ := List.getElem?_eq_some_iff.1 hi
  rw [List.getElem_range]

/-- An accepted EDGE of a seeded buffer appends one sample (R121). -/
theorem State.committedSamples_noteWindow_commit {s : State} (hw : SampleMem.wf s.smp = true)
    (hroom : s.stepCount.toNat < s.capacity.val) (k : EdgeKind) (now : Time) :
    (s.noteWindow.commit k now).committedSamples =
      s.committedSamples ++ [{ level := levelEnded k, duration := now - s.lastEdge }] := by
  have hcount : (s.noteWindow.commit k now).stepCount.toNat = s.stepCount.toNat + 1 :=
    count_add_one hroom s.capacity.fits
  have hread := State.entry_noteWindow_commit hw k now
  have hold : ∀ j ∈ List.range s.stepCount.toNat, (s.noteWindow.commit k now).entry j = s.entry j := by
    intro j hj
    rw [hread, if_neg (List.mem_range.1 hj).ne]
  rw [State.committedSamples, hcount, List.range_succ, List.map_append, List.map_congr_left hold]
  simp [State.committedSamples, hread]

/-! ## A burst longer than the buffer -/

@[simp] theorem otherKind_otherKind (k : EdgeKind) : otherKind (otherKind k) = k := by
  cases k <;> rfl

/-- The samples that edges of kinds alternating from `k`, at the distances `ds`, would append. -/
def burstSamples (k : EdgeKind) (ds : List Duration) : List Sample :=
  match ds with
  | [] => []
  | d :: rest => { level := levelEnded k, duration := d } :: burstSamples (otherKind k) rest

@[simp] theorem burstSamples_length (k : EdgeKind) (ds : List Duration) :
    (burstSamples k ds).length = ds.length := by
  induction ds generalizing k with
  | nil => rfl
  | cons d rest ih => simp [burstSamples, ih]

/-- The levels of a burst alternate. -/
theorem burstSamples_getElem? {ds : List Duration} {j : Nat} {d : Duration} (k : EdgeKind) (h : ds[j]? = some d) :
    (burstSamples k ds)[j]? =
      some { level := if j % 2 = 0 then levelEnded k else levelEnded (otherKind k), duration := d } := by
  induction ds generalizing k j with
  | nil => simp at h
  | cons d' rest ih =>
    cases j with
    | zero => cases h; rfl
    | succ j =>
      rw [List.getElem?_cons_succ] at h
      rw [burstSamples, List.getElem?_cons_succ, ih (otherKind k) h, otherKind_otherKind]
      obtain hj | hj := Nat.mod_two_eq_zero_or_one j
      · simp [hj, Nat.succ_mod_two_eq_one_iff.2 hj]
      · simp [hj, Nat.succ_mod_two_eq_zero_iff.2 hj]

/-- On a full buffer no edge of a burst changes anything (R121), and its samples are what is cut away. -/
theorem runOps_burstFrom_of_full (ds : List Duration) (k : EdgeKind) (now : Time) {s : State} (hi : s.init = true)
    (hfull : s.stepCount.toNat = s.capacity.val) (cut : List Sample) :
    runOps (burstFrom k now ds) s = .next s ∧
      s.committedSamples = (s.committedSamples ++ cut).take s.capacity.val := by
  have hedge (k : EdgeKind) (now : Time) : exec (edgeOp k now) s = .next s := by
    rw [exec_edgeOp, State.edge, if_pos hi, if_pos (s.full_iff.2 hfull.ge)]
  refine ⟨?_, (List.take_left' (by simpa using hfull)).symm⟩
  induction ds generalizing k now with
  | nil => rw [burstFrom, runOps_cons (hedge k now), runOps]
  | cons d rest ih => rw [burstFrom, runOps_cons (hedge k now), ih]

/-- A burst met by a seeded buffer appends the time since the last edge and its own durations, cut to the capacity. -/
theorem runOps_burstFrom_committedSamples (ds : List Duration) (k : EdgeKind) (now : Time) {s : State}
    (hw : SampleMem.wf s.smp = true) (hi : s.init = true) (hs : s.seeded = true)
    (hle : s.stepCount.toNat ≤ s.capacity.val) :
    ∃ t, runOps (burstFrom k now ds) s = .next t ∧
      t.committedSamples =
        (s.committedSamples ++ burstSamples k ((now - s.lastEdge) :: ds)).take s.capacity.val := by
  induction ds generalizing k now s with
  | nil =>
    obtain hfull | hroom := hle.eq_or_lt
    · exact ⟨s, runOps_burstFrom_of_full [] k now hi hfull _⟩
    · refine ⟨s.noteWindow.commit k now, ?_, ?_⟩
      · rw [burstFrom, runOps_cons (exec_edgeOp k now s), State.edge_of_seeded hi hs hroom, runOps]
      · rw [State.committedSamples_noteWindow_commit hw hroom, List.take_of_length_le (by simpa using hroom)]
        rfl
  | cons d rest ih =>
    obtain hfull | hroom := hle.eq_or_lt
    · exact ⟨s, runOps_burstFrom_of_full (d :: rest) k now hi hfull _⟩
    · have hcount : (s.noteWindow.commit k now).stepCount.toNat = s.stepCount.toNat + 1 :=
        count_add_one hroom s.capacity.fits
      obtain ⟨t, hrun, hsamples⟩ := ih (otherKind k) (now + d) (s := s.noteWindow.commit k now)
        (SampleMem.write_wf hw _ _) hi hs (hcount.trans_le hroom)
      refine ⟨t, ?_, ?_⟩
      · rw [burstFrom, runOps_cons (exec_edgeOp k now s), State.edge_of_seeded hi hs hroom, hrun]
      · have hd : now + d - (s.noteWindow.commit k now).lastEdge = d := by simp
        rw [hsamples, hd, State.committedSamples_noteWindow_commit hw hroom, List.append_assoc]
        rfl

/-- A burst met by a freshly reset buffer seeds it with its first edge and commits its durations (R102, R128). -/
theorem runOps_burstFrom_of_fresh (ds : List Duration) (k : EdgeKind) (t0 : Time) {s : State}
    (hw : SampleMem.wf s.smp = true) (hi : s.init = true) (hempty : s.stepCount = 0#32) (hs : s.seeded = false) :
    ∃ t, runOps (burstFrom k t0 ds) s = .next t ∧
      t.committedSamples = (burstSamples (otherKind k) ds).take s.capacity.val := by
  have hnone : s.stepCount.toNat = 0 := by simp [hempty]
  have hroom : s.stepCount.toNat < s.capacity.val := hnone ▸ s.capacity.pos
  have hseed : exec (edgeOp k t0) s = .next (s.noteWindow.seed t0) := by
    rw [exec_edgeOp, State.edge_of_unseeded hi hs hroom]
  have hseeded : (s.noteWindow.seed t0).committedSamples = [] := by simp [State.committedSamples, hempty]
  cases ds with
  | nil =>
    refine ⟨s.noteWindow.seed t0, ?_, by simpa [burstSamples] using hseeded⟩
    rw [burstFrom, runOps_cons hseed, runOps]
  | cons d rest =>
    obtain ⟨t, hrun, hsamples⟩ := runOps_burstFrom_committedSamples rest (otherKind k) (t0 + d)
      (s := s.noteWindow.seed t0) hw hi rfl hroom.le
    have hd : t0 + d - (s.noteWindow.seed t0).lastEdge = d := by simp
    rw [hseeded, hd, List.nil_append] at hsamples
    exact ⟨t, by rw [burstFrom, runOps_cons hseed, hrun], hsamples⟩

/-- How many samples a burst leaves in a freshly reset buffer, and which. -/
theorem burstFrom_fills_fresh (ds : List Duration) (k : EdgeKind) (t0 : Time) {s : State}
    (hw : SampleMem.wf s.smp = true) (hi : s.init = true) (hempty : s.stepCount = 0#32) (hs : s.seeded = false) :
    ∃ t, runOps (burstFrom k t0 ds) s = .next t ∧ t.stepCount.toNat = min ds.length s.capacity.val ∧
      ∀ (j : Nat) (d : Duration), ds[j]? = some d → j < s.capacity.val →
        t.entry j = { level := if j % 2 = 0 then levelEnded (otherKind k) else levelEnded k, duration := d } := by
  obtain ⟨t, hrun, hsamples⟩ := runOps_burstFrom_of_fresh ds k t0 hw hi hempty hs
  refine ⟨t, hrun, ?_, fun j d hd hj => State.entry_of_getElem?_committedSamples ?_⟩
  · rw [← State.committedSamples_length, hsamples, List.length_take, burstSamples_length, Nat.min_comm]
  · rw [hsamples, List.getElem?_take_of_lt hj, burstSamples_getElem? _ hd, otherKind_otherKind]

/-- Settles O13: a falling edge ends a high sample, so BURST's first sample, which its second edge ends, is low. -/
theorem burstCommitsItsDurations : Obligations.BurstCommitsItsDurations := by
  unfold Obligations.BurstCommitsItsDurations
  intro s t0 ds hw hi hempty hs
  exact ⟨burstFrom_fills_fresh ds .falling t0 hw hi hempty hs, burstFrom_fills_fresh ds .rising t0 hw hi hempty hs⟩

end Sys2Proof.Machine

/-! EdgeCapture: what one EDGE does (R121, R122, R125), and what a run of edges leaves in the buffer (R128). -/

namespace Sys2Proof.Machine

/-! ## A run of edges -/

/-- The state after the edges of a list, each with its kind and its time, in order. -/
def State.edges (s : State) (events : List (EdgeKind × Time)) : State :=
  match events with
  | [] => s
  | e :: rest => (s.edge e.1 e.2).edges rest

theorem State.edges_nil (s : State) : s.edges [] = s := rfl

theorem State.edges_cons (s : State) (e : EdgeKind × Time) (rest : List (EdgeKind × Time)) :
    s.edges (e :: rest) = (s.edge e.1 e.2).edges rest := rfl

/-- No edge is refused (R121), so a run of them completes. -/
theorem runOps_edges (events : List (EdgeKind × Time)) (s : State) :
    runOps (events.map fun e => edgeOp e.1 e.2) s = .next (s.edges events) := by
  induction events generalizing s with
  | nil => rfl
  | cons e rest ih => rw [List.map_cons, runOps_cons (exec_edgeOp e.1 e.2 s), ih, State.edges_cons]

theorem State.edge_of_full {s : State} (hi : s.init = true) (hfull : s.capacity.val ≤ s.stepCount.toNat)
    (k : EdgeKind) (now : Time) : s.edge k now = s := by
  rw [State.edge, if_pos hi, if_pos (s.full_iff.2 hfull)]

theorem State.edges_of_full {s : State} (hi : s.init = true) (hfull : s.capacity.val ≤ s.stepCount.toNat)
    (events : List (EdgeKind × Time)) : s.edges events = s := by
  induction events with
  | nil => rfl
  | cons e rest ih => rw [State.edges_cons, State.edge_of_full hi hfull, ih]

/-! ## The samples between the edges -/

/-- The sample that the edge `e'` ends, where `e` is the edge before it (R122, R125). -/
def sampleBetween (e e' : EdgeKind × Time) : Sample := { level := levelEnded e'.1, duration := e'.2 - e.2 }

/-- The samples between the edges of a list, each edge with the next. -/
def samplesBetween (events : List (EdgeKind × Time)) : List Sample :=
  List.zipWith sampleBetween events events.tail

theorem samplesBetween_cons_cons (e e' : EdgeKind × Time) (rest : List (EdgeKind × Time)) :
    samplesBetween (e :: e' :: rest) = sampleBetween e e' :: samplesBetween (e' :: rest) := rfl

@[simp] theorem samplesBetween_length (events : List (EdgeKind × Time)) :
    (samplesBetween events).length = events.length - 1 := by
  simp [samplesBetween]

theorem samplesBetween_getElem? {events : List (EdgeKind × Time)} {j : Nat} {e e' : EdgeKind × Time}
    (he : events[j]? = some e) (he' : events[j + 1]? = some e') :
    (samplesBetween events)[j]? = some (sampleBetween e e') := by
  rw [samplesBetween, List.getElem?_zipWith, List.getElem?_tail, he, he']

/-- Edges met by a seeded buffer, whose last edge was `e`, append the samples between them, cut to the capacity. -/
theorem State.committedSamples_edges_of_seeded (events : List (EdgeKind × Time)) (e : EdgeKind × Time) {s : State}
    (hw : SampleMem.wf s.smp = true) (hi : s.init = true) (hs : s.seeded = true) (hlast : s.lastEdge = e.2)
    (hle : s.stepCount.toNat ≤ s.capacity.val) :
    (s.edges events).committedSamples =
      (s.committedSamples ++ samplesBetween (e :: events)).take s.capacity.val := by
  induction events generalizing e s with
  | nil =>
    have hnone : samplesBetween [e] = [] := rfl
    rw [hnone, List.append_nil, List.take_of_length_le (by simpa using hle), State.edges_nil]
  | cons e' rest ih =>
    obtain hfull | hroom := hle.eq_or_lt
    · rw [State.edges_of_full hi hfull.ge, List.take_left' (by simpa using hfull)]
    · have hcount : (s.noteWindow.commit e'.1 e'.2).stepCount.toNat = s.stepCount.toNat + 1 :=
        count_add_one hroom s.capacity.fits
      have hrest := ih e' (s := s.noteWindow.commit e'.1 e'.2) (SampleMem.write_wf hw _ _) hi hs rfl
        (hcount.trans_le hroom)
      rw [State.edges_cons, State.edge_of_seeded hi hs hroom, hrest,
        State.committedSamples_noteWindow_commit hw hroom, hlast, List.append_assoc, samplesBetween_cons_cons]
      rfl

/-- Edges met by a freshly reset buffer leave the samples between them: the first one only seeds (R128). -/
theorem State.committedSamples_edges_of_fresh {events : List (EdgeKind × Time)} {s : State}
    (hw : SampleMem.wf s.smp = true) (hi : s.init = true) (hempty : s.stepCount = 0#32) (hs : s.seeded = false) :
    (s.edges events).committedSamples = (samplesBetween events).take s.capacity.val := by
  have hnone : s.committedSamples = [] := by simp [State.committedSamples, hempty]
  have hroom : s.stepCount.toNat < s.capacity.val := by
    rw [hempty]
    exact s.capacity.pos
  cases events with
  | nil => simpa [State.edges_nil, samplesBetween] using hnone
  | cons e rest =>
    have hseeded : (s.noteWindow.seed e.2).committedSamples = [] := hnone
    have hrest := State.committedSamples_edges_of_seeded rest e (s := s.noteWindow.seed e.2) hw hi rfl rfl hroom.le
    rw [State.edges_cons, State.edge_of_unseeded hi hs hroom, hrest, hseeded, List.nil_append]
    rfl

/-- Settles O12: the samples are those between the edges, and an edge's own kind gives the level that it ends. -/
theorem edgesFillTheBuffer : Obligations.EdgesFillTheBuffer := by
  unfold Obligations.EdgesFillTheBuffer
  intro s events hw hi hempty hs _
  have hsamples := State.committedSamples_edges_of_fresh (events := events) hw hi hempty hs
  have hcount : (s.edges events).stepCount.toNat = min (events.length - 1) s.capacity.val := by
    rw [← State.committedSamples_length, hsamples, List.length_take, samplesBetween_length, Nat.min_comm]
  have hentry (j : Nat) (e e' : EdgeKind × Time) (he : events[j]? = some e) (he' : events[j + 1]? = some e')
      (hj : j < (s.edges events).stepCount.toNat) : (s.edges events).entry j = sampleBetween e e' := by
    refine State.entry_of_getElem?_committedSamples ?_
    rw [hsamples, List.getElem?_take_of_lt (by omega), samplesBetween_getElem? he he']
  refine ⟨s.edges events, runOps_edges events s, hcount, hentry, fun halt j hj => ?_⟩
  have he := List.getElem?_eq_getElem (l := events) (i := j) (by omega)
  have he' := List.getElem?_eq_getElem (l := events) (i := j + 1) (by omega)
  rw [hentry j _ _ he he' hj, sampleBetween, halt (j + 1) _ he']
  obtain h | h := Nat.mod_two_eq_zero_or_one j
  · simp [h, Nat.succ_mod_two_eq_one_iff.2 h, levelEnded]
  · simp [h, Nat.succ_mod_two_eq_zero_iff.2 h, levelEnded]

/-! ## One edge -/

theorem State.edge_readData (s : State) (k : EdgeKind) (now : Time) : (s.edge k now).readData = s.readData := by
  obtain ⟨-, h⟩ | ⟨-, -, h⟩ | ⟨-, -, -, h⟩ | ⟨-, -, -, h⟩ := s.edge_cases k now <;> rw [h] <;> rfl

/-- Settles O9, one path of `State.edge_cases` after another; the rest is the frame of an edge and its `TAINT`. -/
theorem edgeFollowsItsProcedure : Obligations.EdgeFollowsItsProcedure := by
  unfold Obligations.EdgeFollowsItsProcedure
  intro s k now hw
  obtain ⟨hprofile, hdecoder, hinput, hinit⟩ := s.edge_frame k now
  refine ⟨s.edge k now, exec_edgeOp k now s, hprofile, hdecoder, hinput, hinit, s.edge_readData k now,
    fun hi => ?_, fun hi hfull => State.edge_of_full hi hfull.ge k now, fun hi hroom => ?_⟩
  · simp [State.edge_taint, State.accepts, hi]
  · have htaint : (s.edge k now).taint = true ↔
        s.taint = true ∨ s.dstate = .awaitingWakeup ∨ s.dstate = .decodingBits := by
      rw [State.edge_taint, s.accepts_iff.2 ⟨hi, hroom⟩, Bool.true_and, Bool.or_eq_true, State.busy_iff]
    cases hs : s.seeded with
    | false =>
      rw [State.edge_of_unseeded hi hs hroom] at htaint ⊢
      exact ⟨rfl, rfl, rfl, htaint, fun _ => ⟨rfl, rfl⟩, nofun⟩
    | true =>
      rw [State.edge_of_seeded hi hs hroom] at htaint ⊢
      have hentry := State.entry_noteWindow_commit hw k now
      exact ⟨rfl, hs, rfl, htaint, nofun, fun _ => ⟨count_add_one hroom s.capacity.fits,
        (hentry _).trans (if_pos rfl), fun i hne => (hentry i).trans (if_neg hne)⟩⟩

/-- Settles O10: the stored duration is the difference of two words, and the environment's clock may have wrapped. -/
theorem durationIsTheTimeDifference : Obligations.DurationIsTheTimeDifference := by
  unfold Obligations.DurationIsTheTimeDifference
  intro s k now hw hi hroom hs
  have hduration : (s.noteWindow.commit k now).durations s.stepCount.toNat = now - s.lastEdge := by
    rw [State.durations, State.entry_noteWindow_commit hw, if_pos rfl]
  refine ⟨s.noteWindow.commit k now, ?_, fun hle => ?_, fun hlt => ?_, fun heq => ?_, rfl, rfl⟩
  · rw [exec_edgeOp, State.edge_of_seeded hi hs hroom]
  · rw [hduration, BitVec.toNat_sub_of_le hle]
  · rw [hduration, BitVec.toNat_sub_of_lt hlt]
    omega
  · rw [hduration, heq, BitVec.sub_self]

/-- Two edges of one kind commit two samples of one level (R125). -/
theorem runOps_two_edges_levels {s : State} (k : EdgeKind) (now now' : Time) (hw : SampleMem.wf s.smp = true)
    (hi : s.init = true) (hs : s.seeded = true) (hroom : s.stepCount.toNat + 1 < s.capacity.val) :
    ∃ t, runOps [edgeOp k now, edgeOp k now'] s = .next t ∧
      (t.entry s.stepCount.toNat).level = levelEnded k ∧
      (t.entry (s.stepCount.toNat + 1)).level = levelEnded k := by
  have hsamples := State.committedSamples_edges_of_seeded [(k, now), (k, now')] (k, s.lastEdge) hw hi hs rfl (by omega)
  rw [List.take_of_length_le (by simp; omega)] at hsamples
  have hfirst : (s.edges [(k, now), (k, now')]).entry s.stepCount.toNat =
      sampleBetween (k, s.lastEdge) (k, now) :=
    State.entry_of_getElem?_committedSamples (by simp [hsamples, samplesBetween])
  have hsecond : (s.edges [(k, now), (k, now')]).entry (s.stepCount.toNat + 1) =
      sampleBetween (k, now) (k, now') :=
    State.entry_of_getElem?_committedSamples (by simp [hsamples, samplesBetween])
  exact ⟨_, runOps_edges [(k, now), (k, now')] s, by rw [hfirst, sampleBetween], by rw [hsecond, sampleBetween]⟩

/-- Settles O11: a falling edge ends a high level, a rising edge a low one. -/
theorem levelIsTheOneThatEnded : Obligations.LevelIsTheOneThatEnded := by
  unfold Obligations.LevelIsTheOneThatEnded
  intro s now now' hw hi hs hroom
  exact ⟨runOps_two_edges_levels .falling now now' hw hi hs hroom,
    runOps_two_edges_levels .rising now now' hw hi hs hroom⟩

end Sys2Proof.Machine

/-! ProtocolDecoder, one DSTART or DSTEP at a time: which of its outcomes a DSTEP has (R142), what each writes (R141 to
R156), and what the decoder never writes (R162) or reads (R140). -/

namespace Sys2Proof.Machine

/-! ## Which outcome a DSTEP in the bit phase has -/

/-- The pair at the cursor is the end of the stream (R150). -/
def State.AtSeparator (s : State) : Prop :=
  s.profile.separatorThreshold < s.durations s.cursor.toNat ∨
    s.profile.separatorThreshold < s.durations (s.cursor.toNat + 1)

theorem State.not_atSeparator_iff {s : State} :
    ¬ s.AtSeparator ↔ s.durations s.cursor.toNat ≤ s.profile.separatorThreshold ∧
      s.durations (s.cursor.toNat + 1) ≤ s.profile.separatorThreshold := by
  rw [State.AtSeparator, not_or, BitVec.not_lt, BitVec.not_lt]

/-- The three places that call `Finish()`: no pair is left for a wanted bit (R144), the pair at the cursor is a
separator (R150), or all bits are read and no extra pair is left (R155). -/
def State.AtEnd (s : State) : Prop :=
  s.bits.toNat < s.profile.bitCount.toNat ∧ s.snap.toNat < s.cursor.toNat + 2 ∨
  s.bits.toNat < s.profile.bitCount.toNat ∧ s.cursor.toNat + 2 ≤ s.snap.toNat ∧ s.AtSeparator ∨
  s.profile.bitCount.toNat ≤ s.bits.toNat ∧
    min s.snap.toNat s.profile.expectedStepCount.toNat < s.cursor.toNat + 2

/-- The bit step on the pair at the cursor. -/
def State.readPair (s : State) : State :=
  s.consumePair (s.durations s.cursor.toNat) (s.durations (s.cursor.toNat + 1))

section
variable {s : State}

theorem execDstep_skipPair (hd : s.dstate = .decodingBits) (hb : s.profile.bitCount.toNat ≤ s.bits.toNat)
    (hp : s.cursor.toNat + 2 ≤ min s.snap.toNat s.profile.expectedStepCount.toNat) :
    execDstep s = .next s.skipPair := by
  rw [execDstep_extra hd hb, s.extraPairLeft_iff.2 hp]
  rfl

theorem execDstep_noExtraPair (hd : s.dstate = .decodingBits) (hb : s.profile.bitCount.toNat ≤ s.bits.toNat)
    (hp : min s.snap.toNat s.profile.expectedStepCount.toNat < s.cursor.toNat + 2) :
    execDstep s = .next s.finish := by
  rw [execDstep_extra hd hb, if_neg (by rw [State.extraPairLeft_iff]; omega)]

/-- With no full pair left the decode ends, whether bits are missing or not (R144, R155). -/
theorem execDstep_of_snap_lt (hd : s.dstate = .decodingBits) (hp : s.snap.toNat < s.cursor.toNat + 2) :
    execDstep s = .next s.finish := by
  obtain hb | hb := Nat.lt_or_ge s.bits.toNat s.profile.bitCount.toNat
  · exact execDstep_noPair hd hb hp
  · exact execDstep_noExtraPair hd hb (by omega)

section
variable (hi : s.init = true) (hc : s.snap.toNat ≤ s.capacity.val) (hd : s.dstate = .decodingBits)
include hi hc hd

theorem execDstep_readPair (hb : s.bits.toNat < s.profile.bitCount.toNat)
    (hp : s.cursor.toNat + 2 ≤ s.snap.toNat) (hsep : ¬ s.AtSeparator) : execDstep s = .next s.readPair := by
  have hno : ¬ separatorIn s.profile (s.durations s.cursor.toNat) (s.durations (s.cursor.toNat + 1)) = true := by
    rwa [separatorIn_iff]
  exact (execDstep_bit hi hc hd hb hp).trans (congrArg _ (if_neg hno))

theorem execDstep_separator (hb : s.bits.toNat < s.profile.bitCount.toNat)
    (hp : s.cursor.toNat + 2 ≤ s.snap.toNat) (hsep : s.AtSeparator) : execDstep s = .next s.finish := by
  have hyes : separatorIn s.profile (s.durations s.cursor.toNat) (s.durations (s.cursor.toNat + 1)) = true :=
    (separatorIn_iff _ _ _).2 hsep
  exact (execDstep_bit hi hc hd hb hp).trans (congrArg _ (if_pos hyes))

theorem execDstep_of_atEnd (hend : s.AtEnd) : execDstep s = .next s.finish := by
  obtain ⟨-, hp⟩ | ⟨hb, hp, hsep⟩ | ⟨hb, hp⟩ := hend
  · exact execDstep_of_snap_lt hd hp
  · exact execDstep_separator hi hc hd hb hp hsep
  · exact execDstep_noExtraPair hd hb hp

/-- The three outcomes of a DSTEP in the bit phase, each with when it happens: one bit, one extra pair, the finish. -/
theorem execDstep_of_decodingBits :
    s.bits.toNat < s.profile.bitCount.toNat ∧ s.cursor.toNat + 2 ≤ s.snap.toNat ∧ ¬ s.AtSeparator ∧
      execDstep s = .next s.readPair ∨
    s.profile.bitCount.toNat ≤ s.bits.toNat ∧
      s.cursor.toNat + 2 ≤ min s.snap.toNat s.profile.expectedStepCount.toNat ∧ execDstep s = .next s.skipPair ∨
    s.AtEnd ∧ execDstep s = .next s.finish := by
  obtain hb | hb := Nat.lt_or_ge s.bits.toNat s.profile.bitCount.toNat
  · by_cases hp : s.cursor.toNat + 2 ≤ s.snap.toNat
    · by_cases hsep : s.AtSeparator
      · exact .inr (.inr ⟨.inr (.inl ⟨hb, hp, hsep⟩), execDstep_separator hi hc hd hb hp hsep⟩)
      · exact .inl ⟨hb, hp, hsep, execDstep_readPair hi hc hd hb hp hsep⟩
    · exact .inr (.inr ⟨.inl ⟨hb, by omega⟩, execDstep_of_snap_lt hd (by omega)⟩)
  · by_cases hp : s.cursor.toNat + 2 ≤ min s.snap.toNat s.profile.expectedStepCount.toNat
    · exact .inr (.inl ⟨hb, hp, execDstep_skipPair hd hb hp⟩)
    · exact .inr (.inr ⟨.inr (.inr ⟨hb, by omega⟩), execDstep_noExtraPair hd hb (by omega)⟩)

end

theorem State.finishClean_of_bitsWanted (hb : s.bits.toNat < s.profile.bitCount.toNat) :
    s.finishClean = { s with dstate := if s.error then .error else .truncated } := by
  rw [State.finishClean_eq_self, State.terminalState, s.bitsWanted_iff.2 hb]
  rfl

theorem State.finishClean_of_bitsRead (hb : s.profile.bitCount.toNat ≤ s.bits.toNat) :
    s.finishClean = { s with dstate := if s.error then .error else .complete } := by
  have hno : ¬ s.bitsWanted = true := by rwa [State.bitsWanted_iff, Nat.not_lt]
  rw [State.finishClean_eq_self, State.terminalState, if_neg hno]

end

/-! ## DSTART and the wake-up step -/

/-- Settles O15: the refusals in the order of `execDstart`'s tests, then `State.beginDecode`. -/
theorem dstartFollowsItsProcedure : Obligations.DstartFollowsItsProcedure := by
  unfold Obligations.DstartFollowsItsProcedure
  refine ⟨⟨by decide, rfl⟩, fun s => ⟨fun hi => ?_, fun hi hp => ?_, fun hi hp hd => ?_, fun hi hp hw hd hc => ?_,
    fun hi hp hw hd hc => ?_⟩⟩
  · simp [exec, execDstart, hi]
  · simp [exec, execDstart, hi, hp]
  · simp [exec, execDstart, hi, hp, s.busy_iff.2 hd]
  · have hb : ¬ s.busy = true := by rw [State.busy_iff, not_or]; exact ⟨hw, hd⟩
    simp [exec, execDstart, hi, hp, hb, hc]
  · have hb : s.busy = false := by rw [Bool.eq_false_iff, Ne, State.busy_iff, not_or]; exact ⟨hw, hd⟩
    exact ⟨s.beginDecode, exec_dstart_of_ready hi hp hb hc, rfl, rfl, rfl, rfl, rfl, rfl, rfl,
      ⟨rfl, rfl, rfl, rfl, rfl⟩, ⟨rfl, rfl⟩, ⟨rfl, rfl⟩, ⟨rfl, rfl⟩⟩

/-- A finishing step reaches a terminal state. -/
theorem State.finish_terminal (s : State) : s.finish.terminal = true := by
  obtain ⟨-, -, -, -, -, -, -, -, -, -, -, -, hterm⟩ := s.finish_frame
  exact s.finish.terminal_iff.2 hterm

/-- Settles O16: the cursor stands at `SNAP` after the wake-up step, so the next DSTEP finishes on what DSTART left. -/
theorem wakeStepPassesTheMarker : Obligations.WakeStepPassesTheMarker := by
  unfold Obligations.WakeStepPassesTheMarker
  intro s hd
  refine ⟨s.wakeStep, exec_dstep_of_awaitingWakeup hd, s.wakeStep_cursor_toNat, rfl, rfl, rfl, rfl, rfl, rfl,
    ⟨rfl, rfl, rfl, rfl, rfl⟩, ⟨rfl, rfl⟩, ⟨rfl, rfl⟩, ⟨rfl, rfl⟩, fun hshort hclean => ?_⟩
  have hcursor : s.wakeStep.snap.toNat < s.wakeStep.cursor.toNat + 2 := by
    rw [State.wakeStep_cursor_toNat, State.wakeStep_snap]
    omega
  refine ⟨s.wakeStep.finish, execDstep_of_snap_lt rfl hcursor, s.wakeStep.finish_terminal, ?_⟩
  rw [State.finish_of_clean (s := s.wakeStep) hclean]
  refine ⟨⟨rfl, rfl, rfl, rfl, rfl⟩, fun hinv => ?_⟩
  obtain ⟨-, hbits, herror, hcode⟩ := hinv.waking hd
  exact ⟨hbits, hcode, herror⟩

/-! ## The bit phase -/

/-- Settles O17: a wanted bit without a pair is the first place of `State.AtEnd`. -/
theorem bitStepWithoutAPairFinishes : Obligations.BitStepWithoutAPairFinishes := by
  unfold Obligations.BitStepWithoutAPairFinishes
  intro s hd hb hp hclean
  rw [exec_dstep, execDstep_noPair hd hb hp, State.finish_of_clean hclean, State.finishClean_of_bitsWanted hb]

/-- Settles O18: a separator finishes with the bits it has; any other pair is read. -/
theorem separatorStopsTheBitPhase : Obligations.SeparatorStopsTheBitPhase := by
  unfold Obligations.SeparatorStopsTheBitPhase
  intro s hi hc hd hb hp hclean
  refine ⟨fun hsep => ?_, fun hlo hhi => ?_⟩
  · rw [exec_dstep, execDstep_separator hi hc hd hb hp hsep, State.finish_of_clean hclean,
      State.finishClean_of_bitsWanted hb]
  · exact ⟨s.readPair, execDstep_readPair hi hc hd hb hp (State.not_atSeparator_iff.2 ⟨hlo, hhi⟩), hd,
      bits_add_one hb⟩

/-- The code after a bit step, as a number (R151). -/
theorem State.readPair_code_toNat (s : State) :
    s.readPair.code.toNat = (2 * s.code.toNat +
      (if s.profile.zeroOneThreshold < s.durations (s.cursor.toNat + 1) ∧
        s.durations (s.cursor.toNat + 1) < s.profile.noiseCeiling then 1 else 0)) % 2 ^ 64 := by
  rw [State.readPair, State.consumePair_code, shifted_code]
  simp only [acceptedOne_iff]

/-- Settles O19; R40 (v) bounds the code before the shift (`codeLosesNoBit`). -/
theorem highHalfGivesTheBit : Obligations.HighHalfGivesTheBit := by
  unfold Obligations.HighHalfGivesTheBit
  intro s hi hc hd hb hp hlo hhi
  refine ⟨s.readPair, execDstep_readPair hi hc hd hb hp (State.not_atSeparator_iff.2 ⟨hlo, hhi⟩),
    s.readPair_code_toNat, fun hinv hfits => ?_, bits_add_one hb, count_add_two hp, hd, rfl, rfl,
    ⟨rfl, rfl, rfl, rfl, rfl⟩, ⟨rfl, rfl⟩, ⟨rfl, rfl⟩, ⟨rfl, rfl⟩⟩
  obtain ⟨hroom, -⟩ := codeLosesNoBit s hinv (s.busy_iff.2 (.inr hd))
  exact hroom hb hfits

/-- The flag after a bit step (R152, R153). -/
theorem State.readPair_error_iff (s : State) :
    s.readPair.error = true ↔ s.error = true ∨ s.profile.zeroOneThreshold < s.durations s.cursor.toNat ∨
      s.profile.zeroOneThreshold < s.durations (s.cursor.toNat + 1) ∧
        s.profile.noiseCeiling ≤ s.durations (s.cursor.toNat + 1) := by
  simp only [State.readPair, State.consumePair_error, Bool.or_eq_true, lowAnomaly_iff, noisyHigh_iff, or_assoc]

/-- A bit that is not an accepted 1 is shifted in as a 0 (R151, R153). -/
theorem State.readPair_code_of_not_acceptedOne {s : State}
    (h : ¬ (s.profile.zeroOneThreshold < s.durations (s.cursor.toNat + 1) ∧
      s.durations (s.cursor.toNat + 1) < s.profile.noiseCeiling)) : s.readPair.code = s.code <<< 1 := by
  rw [← acceptedOne_iff] at h
  rw [State.readPair, State.consumePair_code, if_neg h, BitVec.or_zero]

/-- Settles O20: the flag by `State.readPair_error_iff`; the bit in the three cases of the high half. -/
theorem softAnomaliesSetErrorOnly : Obligations.SoftAnomaliesSetErrorOnly := by
  unfold Obligations.SoftAnomaliesSetErrorOnly
  intro s hi hc hd hb hp hlo hhi
  refine ⟨s.readPair, execDstep_readPair hi hc hd hb hp (State.not_atSeparator_iff.2 ⟨hlo, hhi⟩), bits_add_one hb, hd,
    s.readPair_error_iff, fun _ hnoisy => ?_, fun hlong hquiet => ?_, fun hshort => ?_⟩
  · exact State.readPair_code_of_not_acceptedOne fun hone => BitVec.not_lt.2 hnoisy hone.2
  · rw [State.readPair, State.consumePair_code, (acceptedOne_iff _ _).2 ⟨hlong, hquiet⟩, if_pos rfl]
  · exact State.readPair_code_of_not_acceptedOne fun hone => BitVec.not_lt.2 hshort hone.1

/-- Settles O21: an extra pair is passed by `State.skipPair`, and without one the decode ends. -/
theorem extraPairsArePassedUnread : Obligations.ExtraPairsArePassedUnread := by
  unfold Obligations.ExtraPairsArePassedUnread
  intro s hd hb
  refine ⟨fun hp => ⟨execDstep_skipPair hd hb hp, count_add_two (x := s.snap) (by omega)⟩, fun hp hclean => ?_⟩
  rw [exec_dstep, execDstep_noExtraPair hd hb hp, State.finish_of_clean hclean, State.finishClean_of_bitsRead hb]

/-- Settles O22: `execDstep_of_atEnd`, then the frame of `State.finish`; a clean one writes `DSTATE` only. -/
theorem finishChoosesTheTerminalState : Obligations.FinishChoosesTheTerminalState := by
  unfold Obligations.FinishChoosesTheTerminalState
  intro s hi hc hd hend
  obtain ⟨hlast, hseed, hsmp, hcount, hprof, hload, hsnap, hinit, htaint, hcap, htrace, hread, hterm⟩ := s.finish_frame
  refine ⟨s.finish, execDstep_of_atEnd hi hc hd hend, hsnap, htaint, ⟨hlast, hseed, hsmp, hcount, hinit⟩,
    ⟨hprof, hload⟩, ⟨hcap, htrace⟩, hread, hterm, fun hclean => ?_⟩
  rw [State.finish_of_clean hclean]
  refine ⟨⟨rfl, rfl, rfl, rfl, rfl⟩, rfl, fun he => ?_, fun he hb => ?_, fun he hb => ?_⟩
  · simp [State.terminalState, he]
  · simp [State.finishClean_of_bitsWanted hb, he]
  · simp [State.finishClean_of_bitsRead hb, he]

/-! ## Every DSTEP -/

/-- Settles O23, by the cases of `execDstep_cases`. -/
theorem dstepAdvancesOrFinishes : Obligations.DstepAdvancesOrFinishes := by
  unfold Obligations.DstepAdvancesOrFinishes
  refine ⟨fun s hd => exec_dstep_of_not_busy ?_, fun s t hx => ?_⟩
  · obtain hd | hd | hd | hd := hd <;> simp [State.busy, hd]
  · obtain ⟨hd, rfl⟩ | ⟨hd, -, hp, -, n, lo, hi, -, -, rfl⟩ | ⟨hd, -, hp, rfl⟩ | ⟨hd, n, -, rfl⟩ := execDstep_cases hx
    · exact .inl ⟨hd, rfl⟩
    · have hcursor : (s.cursor + 2#32).toNat = s.cursor.toNat + 2 := count_add_two hp
      exact .inr (.inl ⟨hd, hd, hcursor, hcursor.trans_le hp⟩)
    · have hsnap : s.cursor.toNat + 2 ≤ s.snap.toNat := by omega
      have hcursor : (s.cursor + 2#32).toNat = s.cursor.toNat + 2 := count_add_two hsnap
      exact .inr (.inl ⟨hd, hd, hcursor, hcursor.trans_le hsnap⟩)
    · exact .inr (.inr ⟨hd, (State.terminal_iff _).1 (State.finish_terminal _)⟩)

/-- The pairs of a busy decoder lie in the sample space of a reset buffer (R141, R40 (ii)). -/
theorem State.Inv.readable_of_busy {s : State} (h : s.Inv) (hbusy : s.busy = true) :
    s.init = true ∧ s.snap.toNat ≤ s.capacity.val := by
  have hne := State.busy_ne_idle hbusy
  exact ⟨(h.ready hne).1, (h.snapBounded hne).2⟩

/-- Settles O24: the invariant keeps the pair inside the sample space, and every outcome of a busy DSTEP is a state. -/
theorem noDstepIsRefusedWhileBusy : Obligations.NoDstepIsRefusedWhileBusy := by
  unfold Obligations.NoDstepIsRefusedWhileBusy
  intro s hinv hbusy
  obtain ⟨hi, hc⟩ := hinv.readable_of_busy hbusy
  obtain hd | hd := s.busy_iff.1 hbusy
  · exact ⟨_, exec_dstep_of_awaitingWakeup hd⟩
  · obtain ⟨-, -, -, hx⟩ | ⟨-, -, hx⟩ | ⟨-, hx⟩ := execDstep_of_decodingBits hi hc hd <;> exact ⟨_, hx⟩

/-- Settles O31; what a DSTEP leaves alone is `execDstep_frame`, and it returns nothing. -/
theorem decoderWritesOnlyItsRegisters : Obligations.DecoderWritesOnlyItsRegisters := by
  unfold Obligations.DecoderWritesOnlyItsRegisters
  rintro s t i (rfl | rfl) hx
  · obtain ⟨-, -, -, -, rfl⟩ := execDstart_cases hx
    exact ⟨⟨rfl, rfl, rfl, rfl, rfl⟩, ⟨rfl, rfl⟩, ⟨rfl, rfl⟩, rfl⟩
  · obtain ⟨hcap, hprof, hin, -⟩ := execDstep_frame hx
    refine ⟨hcap, hprof, hin, ?_⟩
    obtain ⟨-, rfl⟩ | ⟨-, -, -, -, n, lo, hi, -, -, rfl⟩ | ⟨-, -, -, rfl⟩ | ⟨-, n, -, rfl⟩ := execDstep_cases hx
    · rfl
    · rfl
    · rfl
    · obtain ⟨-, -, -, -, -, -, -, -, -, -, -, hread, -⟩ := ({ s with draws := n } : State).finish_frame
      exact hread

/-! ## The decoder reads durations only -/

/-- `s` with another sample memory. -/
def State.withMem (s : State) (m : SampleMem) : State := { s with smp := m }

theorem State.finish_withMem (s : State) (m : SampleMem) : (s.withMem m).finish = s.finish.withMem m := by
  unfold State.finish
  rw [apply_ite (State.withMem · m)]
  rfl

theorem State.takePair_withMem (s : State) (m : SampleMem) (lo hi : Duration) :
    (s.withMem m).takePair lo hi = (s.takePair lo hi).withMem m := by
  unfold State.takePair
  rw [apply_ite (State.withMem · m), ← State.finish_withMem]
  rfl

/-- What a bit step of a reset buffer needs of the samples: the two durations at the cursor (R144). -/
theorem bitStep_of_init {s : State} (hi : s.init = true) :
    bitStep s = if s.pairLeft then
        if s.cursor.toNat + 1 < s.capacity.val then
          .next (s.takePair (s.durations s.cursor.toNat) (s.durations (s.cursor.toNat + 1)))
        else .refused .indexOutOfRange
      else .next s.finish := by
  unfold bitStep
  refine if_congr Iff.rfl ?_ rfl
  by_cases hin : s.cursor.toNat + 1 < s.capacity.val
  · rw [if_pos hin]
    have hlow : s.smpRead s.lowIndex = some (s.entry s.cursor.toNat, s) :=
      State.smpRead_of_init (Nat.lt_of_succ_lt hin) hi
    have hhigh : s.smpRead s.highIndex = some (s.entry (s.cursor.toNat + 1), s) := State.smpRead_of_init hin hi
    simp only [hlow, hhigh]
    rfl
  · rw [if_neg hin]
    have hhigh : s.smpRead s.highIndex = none := State.smpRead_none (Nat.not_lt.1 hin)
    obtain hlow | hlow := Nat.lt_or_ge s.lowIndex s.capacity.val
    · simp only [State.smpRead_of_init hlow hi, hhigh]
    · simp only [State.smpRead_none hlow]

theorem execDstep_withMem {s : State} {m : SampleMem} (hi : s.init = true)
    (hdur : (s.withMem m).durations = s.durations) :
    execDstep (s.withMem m) = mapNext (State.withMem · m) (execDstep s) := by
  have hbit : bitStep (s.withMem m) = mapNext (State.withMem · m) (bitStep s) := by
    rw [bitStep_of_init hi, bitStep_of_init (s := s.withMem m) hi, hdur, State.takePair_withMem,
      State.finish_withMem, apply_ite (mapNext _), apply_ite (mapNext _)]
    rfl
  have hextra : extraStep (s.withMem m) = mapNext (State.withMem · m) (extraStep s) := by
    rw [extraStep, extraStep, State.finish_withMem, apply_ite (mapNext _)]
    rfl
  have hd : (s.withMem m).dstate = s.dstate := rfl
  unfold execDstep
  cases h : s.dstate <;> simp only [hd, h]
  case decodingBits =>
    rw [apply_ite (mapNext _), ← hbit, ← hextra]
    rfl
  all_goals rfl

/-- Settles O30, by `execDstep_withMem`. -/
theorem decoderNeverReadsLevels : Obligations.DecoderNeverReadsLevels := by
  unfold Obligations.DecoderNeverReadsLevels
  intro s m hi hdur
  have hstep : execDstep (s.withMem m) = mapNext (State.withMem · m) (execDstep s) :=
    execDstep_withMem hi (funext hdur)
  exact ⟨fun t hx => hstep.trans (congrArg _ hx), fun r hx => hstep.trans (congrArg _ hx)⟩

end Sys2Proof.Machine

/-! ProtocolDecoder, a whole decode: it ends within its bound (R142, R160), and a quiet one computes the pure function
of R157 (R158, R161, R165, R166). The second rests on one relation, `State.DecodePoint`, that every quiet operation keeps. -/

namespace Sys2Proof.Machine

/-! ## A decode ends -/

theorem runOps_replicate_succ {s t : State} (hx : exec .dstep s = .next t) (k : Nat) :
    runOps (List.replicate (k + 1) .dstep) s = runOps (List.replicate k .dstep) t := by
  rw [List.replicate_succ, runOps_cons hx]

/-- With at most `m` pairs left, at most `m` DSTEPs pass them and one finishes (by induction on `m`). -/
theorem dsteps_end_of_pairs_left (m : Nat) {s : State} (h : s.Inv) (hd : s.dstate = .decodingBits)
    (hm : s.snap.toNat < s.cursor.toNat + 2 * m + 2) :
    ∃ k t, k ≤ m + 1 ∧ runOps (List.replicate k .dstep) s = .next t ∧ t.terminal = true := by
  induction m generalizing s with
  | zero => exact ⟨1, s.finish, le_rfl, runOps_cons (execDstep_of_snap_lt hd hm), s.finish_terminal⟩
  | succ m ih =>
    have hpass {u : State} (hx : exec .dstep s = .next u) (hdu : u.dstate = s.dstate) (hsnap : u.snap = s.snap)
        (hpair : s.cursor.toNat + 2 ≤ s.snap.toNat) (hcur : u.cursor = s.cursor + 2#32) :
        ∃ k t, k ≤ m + 1 + 1 ∧ runOps (List.replicate k .dstep) s = .next t ∧ t.terminal = true := by
      obtain ⟨k, t, hk, hrun, hterm⟩ := ih (h.exec hx) (hdu.trans hd)
        (by rw [hsnap, hcur, count_add_two hpair]; omega)
      exact ⟨k + 1, t, by omega, (runOps_replicate_succ hx k).trans hrun, hterm⟩
    obtain ⟨hi, hc⟩ := h.readable_of_busy (s.busy_iff.2 (.inr hd))
    obtain ⟨-, hp, -, hx⟩ | ⟨-, hp, hx⟩ | ⟨-, hx⟩ := execDstep_of_decodingBits hi hc hd
    · exact hpass hx rfl rfl hp rfl
    · exact hpass hx rfl rfl (by omega) rfl
    · exact ⟨1, s.finish, by omega, runOps_cons hx, s.finish_terminal⟩

/-- Settles O25: one DSTEP for the wake-up, then at most `SNAP / 2` pairs and the finish. -/
theorem decodeEndsWithinItsBound : Obligations.DecodeEndsWithinItsBound := by
  unfold Obligations.DecodeEndsWithinItsBound
  intro s s1 hinv hstart
  have hinv1 := hinv.exec hstart
  obtain ⟨-, -, -, -, rfl⟩ := execDstart_cases hstart
  have hwake : exec .dstep s.beginDecode = .next s.beginDecode.wakeStep := exec_dstep_of_awaitingWakeup rfl
  obtain ⟨k, t, hk, hrun, hterm⟩ := dsteps_end_of_pairs_left (s.beginDecode.snap.toNat / 2) (hinv1.exec hwake) rfl
    (by rw [State.wakeStep_snap]; omega)
  exact ⟨k + 1, t, by omega, (runOps_replicate_succ hwake k).trans hrun, hterm⟩

/-! ## What the first pairs of a buffer decode to -/

/-- The bits read so far as a number, the first the most significant (R161). -/
def msbFirst (bit : Nat → Nat) (k : Nat) : Nat := (List.range k).foldl (fun acc j => 2 * acc + bit j) 0

theorem msbFirst_succ (bit : Nat → Nat) (k : Nat) : msbFirst bit (k + 1) = 2 * msbFirst bit k + bit k := by
  rw [msbFirst, List.range_succ, List.foldl_append]
  rfl

theorem msbFirst_lt {bit : Nat → Nat} (hbit : ∀ j, bit j ≤ 1) (k : Nat) : msbFirst bit k < 2 ^ k := by
  induction k with
  | zero => exact Nat.one_pos
  | succ k ih =>
    have := hbit k
    rw [msbFirst_succ, Nat.pow_succ]
    omega

theorem msbFirst_eq_sum (bit : Nat → Nat) (k : Nat) :
    msbFirst bit k = ((List.range k).map fun j => bit j * 2 ^ (k - 1 - j)).sum := by
  induction k with
  | zero => rfl
  | succ k ih =>
    have hdouble : ∀ j ∈ List.range k, bit j * 2 ^ (k + 1 - 1 - j) = 2 * (bit j * 2 ^ (k - 1 - j)) := by
      intro j hj
      have hj := List.mem_range.1 hj
      rw [show k + 1 - 1 - j = k - 1 - j + 1 by omega, Nat.pow_succ]
      ring
    rw [msbFirst_succ, ih, List.range_succ, List.map_append, List.sum_append, List.map_congr_left hdouble,
      List.sum_map_mul_left]
    simp

theorem msbFirst_of_zeros {bit : Nat → Nat} {k : Nat} (h : ∀ j < k, bit j = 0) : msbFirst bit k = 0 := by
  induction k with
  | zero => rfl
  | succ k ih => rw [msbFirst_succ, ih fun j hj => h j (by omega), h k (by omega)]

theorem msbFirst_of_ones {bit : Nat → Nat} {k : Nat} (h : ∀ j < k, bit j = 1) : msbFirst bit k = 2 ^ k - 1 := by
  induction k with
  | zero => rfl
  | succ k ih =>
    have := Nat.two_pow_pos k
    rw [msbFirst_succ, ih fun j hj => h j (by omega), h k (by omega), Nat.pow_succ]
    omega

/-- The body of R157's loop says of a result what R151 to R154 say of the registers. -/
theorem pureBit_eq (p : Profile) (lo hi : Duration) (r : DecodedCommand) :
    pureBit p lo hi r =
      { code := (r.code <<< 1) ||| (if acceptedOne p hi then 1#64 else 0#64)
        bitsConsumed := r.bitsConsumed + 1
        error := r.error || lowAnomaly p lo || noisyHigh p hi } := by
  unfold pureBit acceptedOne noisyHigh lowAnomaly
  by_cases hshort : hi ≤ p.zeroOneThreshold
  · have hnot : ¬ p.zeroOneThreshold < hi := BitVec.not_lt.2 hshort
    simp [hshort, hnot]
  · have hlong : p.zeroOneThreshold < hi := BitVec.not_le.1 hshort
    by_cases hquiet : hi < p.noiseCeiling <;> simp [hshort, hlong, hquiet]

/-- A bit step does to the registers what the loop's body does to a result. -/
theorem State.command_readPair {s : State} (hb : s.bits.toNat < s.profile.bitCount.toNat) :
    s.readPair.command =
      pureBit s.profile (s.durations s.cursor.toNat) (s.durations (s.cursor.toNat + 1)) s.command := by
  have hbits : s.readPair.bits.toNat = s.bits.toNat + 1 := bits_add_one hb
  rw [pureBit_eq, State.command, hbits]
  rfl

section
variable (s : State)

/-- Where the bit phase of a decode of `s` begins (R143). -/
def State.firstPair : Nat := min s.profile.wakeupStepCount.toNat s.stepCount.toNat

/-- The low half of the `j`-th pair of the bit phase. -/
def State.lowHalf (j : Nat) : Duration := s.durations (s.firstPair + 2 * j)

/-- The high half of the `j`-th pair of the bit phase. -/
def State.highHalf (j : Nat) : Duration := s.durations (s.firstPair + 2 * j + 1)

/-- The `j`-th pair is asked for and committed (R144). -/
def State.WantsPair (j : Nat) : Prop :=
  j < s.profile.bitCount.toNat ∧ s.firstPair + 2 * j + 2 ≤ s.stepCount.toNat

/-- The bit phase goes past the `j`-th pair, if it reaches it: it wants it, and it is no separator (R150). -/
def State.TakesPair (j : Nat) : Prop :=
  s.WantsPair j ∧ s.lowHalf j ≤ s.profile.separatorThreshold ∧ s.highHalf j ≤ s.profile.separatorThreshold

/-- The bit that the `j`-th pair gives (R151). -/
def State.bitOf (j : Nat) : Nat :=
  if s.profile.zeroOneThreshold < s.highHalf j ∧ s.highHalf j < s.profile.noiseCeiling then 1 else 0

/-- What the first `k` pairs decode to if the bit phase takes them all. -/
def State.firstPairs (k : Nat) : DecodedCommand :=
  match k with
  | 0     => { code := 0#64, bitsConsumed := 0, error := false }
  | k + 1 => pureBit s.profile (s.lowHalf k) (s.highHalf k) (State.firstPairs k)

theorem State.firstPairs_bitsConsumed (k : Nat) : (s.firstPairs k).bitsConsumed = k := by
  induction k with
  | zero => rfl
  | succ k ih => rw [State.firstPairs, pureBit_eq, ih]

theorem State.bitOf_le_one (j : Nat) : s.bitOf j ≤ 1 := by
  unfold State.bitOf
  split <;> omega

theorem State.firstPairs_code (k : Nat) : (s.firstPairs k).code.toNat = msbFirst s.bitOf k % 2 ^ 64 := by
  induction k with
  | zero => rfl
  | succ k ih =>
    have hbit : (if acceptedOne s.profile (s.highHalf k) then 1 else 0) = s.bitOf k := by
      simp only [State.bitOf, acceptedOne_iff]
    rw [State.firstPairs, pureBit_eq, shifted_code, ih, hbit, msbFirst_succ]
    omega

variable {s}

theorem State.firstPairs_error {k : Nat} (h : ∀ j < k, s.lowHalf j ≤ s.profile.zeroOneThreshold ∧
    (s.highHalf j ≤ s.profile.zeroOneThreshold ∨ s.highHalf j < s.profile.noiseCeiling)) :
    (s.firstPairs k).error = false := by
  induction k with
  | zero => rfl
  | succ k ih =>
    obtain ⟨hlo, hhi⟩ := h k (by omega)
    have hlow : lowAnomaly s.profile (s.lowHalf k) = false := by
      rw [Bool.eq_false_iff, Ne, lowAnomaly_iff, BitVec.not_lt]
      exact hlo
    have hhigh : noisyHigh s.profile (s.highHalf k) = false := by
      rw [Bool.eq_false_iff, Ne, noisyHigh_iff, not_and_or, BitVec.not_lt, BitVec.not_le]
      exact hhi
    rw [State.firstPairs, pureBit_eq, ih fun j hj => h j (by omega), hlow, hhigh]
    rfl

/-- R157's loop goes past a pair that the bit phase takes. -/
theorem pureLoop_of_takesPair {j : Nat} (h : s.TakesPair j) (fuel : Nat) :
    pureLoop s.durations s.stepCount.toNat s.profile (fuel + 1) (s.firstPair + 2 * j) (s.firstPairs j) =
      pureLoop s.durations s.stepCount.toNat s.profile fuel (s.firstPair + 2 * (j + 1)) (s.firstPairs (j + 1)) := by
  obtain ⟨⟨hwanted, hpair⟩, hlo, hhi⟩ := h
  have hjoins : ¬ (s.durations (s.firstPair + 2 * j) > s.profile.separatorThreshold ∨
      s.durations (s.firstPair + 2 * j + 1) > s.profile.separatorThreshold) :=
    not_or.2 ⟨BitVec.not_lt.2 hlo, BitVec.not_lt.2 hhi⟩
  rw [pureLoop, State.firstPairs_bitsConsumed, if_pos ⟨hwanted, hpair⟩, if_neg hjoins]
  rfl

/-- R157's loop stops at a pair that the bit phase does not take. -/
theorem pureLoop_of_not_takesPair {j : Nat} (h : ¬ s.TakesPair j) (fuel : Nat) :
    pureLoop s.durations s.stepCount.toNat s.profile fuel (s.firstPair + 2 * j) (s.firstPairs j) =
      s.firstPairs j := by
  cases fuel with
  | zero => rfl
  | succ fuel =>
    rw [pureLoop, State.firstPairs_bitsConsumed]
    split
    next hwants =>
      refine if_pos ?_
      by_contra hjoins
      rw [not_or, gt_iff_lt, gt_iff_lt, BitVec.not_lt, BitVec.not_lt] at hjoins
      exact h ⟨hwants, hjoins⟩
    next => rfl

/-- The pure function is the pairs up to the first that the bit phase does not take. -/
theorem pureDecode_eq_firstPairs {k : Nat} (htaken : ∀ j < k, s.TakesPair j) (hstop : ¬ s.TakesPair k) :
    pureDecode s.durations s.stepCount.toNat s.profile = s.firstPairs k := by
  have hfuel : k ≤ s.stepCount.toNat := by
    cases k with
    | zero => exact Nat.zero_le _
    | succ k =>
      obtain ⟨⟨-, hpair⟩, -⟩ := htaken k (by omega)
      omega
  have hloop : ∀ j ≤ k, pureDecode s.durations s.stepCount.toNat s.profile =
      pureLoop s.durations s.stepCount.toNat s.profile (s.stepCount.toNat - j) (s.firstPair + 2 * j)
        (s.firstPairs j) := by
    intro j hj
    induction j with
    | zero => rfl
    | succ j ih =>
      rw [ih (by omega), show s.stepCount.toNat - j = s.stepCount.toNat - (j + 1) + 1 by omega,
        pureLoop_of_takesPair (htaken j (by omega))]
  rw [hloop k le_rfl, pureLoop_of_not_takesPair hstop]

end

/-! ## The points of a quiet decode -/

/-- In `t` the decode of `s` has passed the pairs of its bits and `extra` extra ones (R144, R155). -/
structure State.Passed (s t : State) (extra : Nat) : Prop where
  cursor    : t.cursor.toNat = s.firstPair + 2 * (t.bits.toNat + extra)
  extraOnly : extra = 0 ∨ t.bits = t.profile.bitCount ∧
    t.cursor.toNat ≤ min t.snap.toNat t.profile.expectedStepCount.toNat

/-- How far the decode of `s` has come in `t` after so many DSTEPs (R142). -/
inductive State.Phase (s t : State) : Nat → Prop where
  | waking (dstate : t.dstate = .awaitingWakeup) : s.Phase t 0
  | decoding (extra : Nat) (dstate : t.dstate = .decodingBits) (passed : s.Passed t extra) :
      s.Phase t (1 + t.bits.toNat + extra)
  | finished (extra : Nat) (dstate : t.dstate = pureTerminal t.command t.profile) (passed : s.Passed t extra)
      (atEnd : t.AtEnd) : s.Phase t (2 + t.bits.toNat + extra)

/-- `t` is a point of the quiet decode of `s`, after `k` DSTEPs: the buffer and the profile are those of `s`, and the
result is that of the first `BITS` pairs, all of them taken. -/
structure State.DecodePoint (s : State) (k : Nat) (t : State) : Prop where
  inv       : t.Inv
  init      : t.init = true
  clean     : t.taint = false
  smp       : t.smp = s.smp
  stepCount : t.stepCount = s.stepCount
  profile   : t.profile = s.profile
  snap      : t.snap = s.stepCount
  result    : t.command = s.firstPairs t.bits.toNat
  taken     : ∀ j < t.bits.toNat, s.TakesPair j
  phase     : s.Phase t k

section
variable {s t : State} {k : Nat}

theorem pureTerminal_terminal (r : DecodedCommand) (p : Profile) :
    pureTerminal r p = .complete ∨ pureTerminal r p = .truncated ∨ pureTerminal r p = .error := by
  unfold pureTerminal
  split
  · simp
  · split <;> simp

theorem State.terminalState_eq_pureTerminal (t : State) : t.terminalState = pureTerminal t.command t.profile :=
  if_congr Iff.rfl rfl (if_congr t.bitsWanted_iff rfl rfl)

theorem State.DecodePoint.durations (h : s.DecodePoint k t) : t.durations = s.durations := by
  funext i
  rw [State.durations, State.durations, State.entry, State.entry, h.smp]

/-- The pair that the next bit step would take starts at the cursor. -/
theorem State.Passed.cursor_of_bitsWanted {extra : Nat} (h : s.Passed t extra)
    (hb : t.bits.toNat < t.profile.bitCount.toNat) : extra = 0 ∧ t.cursor.toNat = s.firstPair + 2 * t.bits.toNat := by
  obtain rfl | ⟨hbits, -⟩ := h.extraOnly
  · exact ⟨rfl, h.cursor⟩
  · rw [hbits] at hb
    exact absurd hb (Nat.lt_irrefl _)

/-- While bits are wanted, the pair at the cursor is taken exactly when it is there and is no separator. -/
theorem State.DecodePoint.takesPair_iff {extra : Nat} (h : s.DecodePoint k t) (hp : s.Passed t extra)
    (hb : t.bits.toNat < t.profile.bitCount.toNat) :
    s.TakesPair t.bits.toNat ↔ t.cursor.toNat + 2 ≤ t.snap.toNat ∧ ¬ t.AtSeparator := by
  obtain ⟨-, hcursor⟩ := hp.cursor_of_bitsWanted hb
  rw [h.profile] at hb
  rw [State.TakesPair, State.WantsPair, State.lowHalf, State.highHalf, State.not_atSeparator_iff, hcursor,
    h.durations, h.profile, h.snap]
  exact and_congr_left' (and_iff_right hb)

theorem State.DecodePoint.not_takesPair_of_atEnd {extra : Nat} (h : s.DecodePoint k t) (hp : s.Passed t extra)
    (hend : t.AtEnd) : ¬ s.TakesPair t.bits.toNat := by
  obtain ⟨hb, hnone⟩ | ⟨hb, -, hsep⟩ | ⟨hb, -⟩ := hend
  · rw [h.takesPair_iff hp hb]
    exact fun htakes => absurd htakes.1 (Nat.not_le.2 hnone)
  · rw [h.takesPair_iff hp hb]
    exact fun htakes => htakes.2 hsep
  · rintro ⟨⟨hwanted, -⟩, -⟩
    rw [h.profile] at hb
    omega

/-! ### Every quiet operation goes from point to point -/

theorem decodePoint_of_dstart (h : s.Inv) (hstart : exec .dstart s = .next t) : s.DecodePoint 0 t := by
  have hinv := h.exec hstart
  obtain ⟨hi, -, -, -, rfl⟩ := execDstart_cases hstart
  exact
    { inv := hinv
      init := hi
      clean := rfl
      smp := rfl
      stepCount := rfl
      profile := rfl
      snap := rfl
      result := rfl
      taken := fun j hj => absurd hj (Nat.not_lt_zero j)
      phase := .waking rfl }

theorem State.DecodePoint.read (h : s.DecodePoint k t) (readData : Option ReadData) (draws : Nat) :
    s.DecodePoint k { t with readData, draws } :=
  { h with
    inv := { h.inv with }
    phase := by
      cases h.phase with
      | waking hd => exact .waking hd
      | decoding extra hd hp => exact .decoding (t := { t with readData, draws }) extra hd { hp with }
      | finished extra hd hp hend => exact .finished (t := { t with readData, draws }) extra hd { hp with } hend }

/-- A quiet operation in a reset buffer is a DSTEP, or writes the read data and the count of draws at most. -/
theorem quietOp_cases {u : State} {i : Instr} (hinit : t.init = true) (hquiet : quietOp t i = true)
    (hx : exec i t = .next u) :
    i = .dstep ∧ execDstep t = .next u ∨ i ≠ .dstep ∧ ∃ readData draws, u = { t with readData, draws } := by
  cases State.effect_of_exec hx with
  | edge k now =>
    have hfull : t.accepts = false := by cases k <;> simpa [quietOp, edgeOp] using hquiet
    have hcap : t.capacity.val ≤ t.stepCount.toNat := by
      rw [State.accepts, hinit, Bool.true_and, Bool.not_eq_false', State.full_iff] at hfull
      exact hfull
    exact .inr ⟨by cases k <;> nofun, t.readData, t.draws, State.edge_of_full hinit hcap k now⟩
  | bclr notBusy => cases hquiet
  | pload p notBusy => cases hquiet
  | dstart init ploaded notBusy committed => cases hquiet
  | dstep accepted => exact .inl ⟨rfl, accepted⟩
  | read isRead d n => exact .inr ⟨by obtain ⟨r, rfl⟩ | ⟨idx, rfl⟩ := isRead <;> nofun, some d, n, rfl⟩

theorem State.DecodePoint.wakeStep (h : s.DecodePoint k t) (hinv : t.wakeStep.Inv) (hd : t.dstate = .awaitingWakeup) :
    s.DecodePoint 1 t.wakeStep := by
  have hbits : t.bits.toNat = 0 := by
    obtain ⟨-, hbits, -⟩ := h.inv.waking hd
    simp [hbits]
  have hpassed : s.Passed t.wakeStep 0 := by
    refine ⟨?_, .inl rfl⟩
    rw [State.wakeStep_cursor_toNat, State.wakeStep_bits, hbits, h.profile, h.snap]
    rfl
  have hphase : s.Phase t.wakeStep (1 + t.bits.toNat + 0) := .decoding 0 rfl hpassed
  rw [hbits] at hphase
  exact { h with inv := hinv, phase := hphase }

section
variable {extra : Nat} (h : s.DecodePoint (1 + t.bits.toNat + extra) t) (hd : t.dstate = .decodingBits)
  (hp : s.Passed t extra)
include h hd hp

theorem State.DecodePoint.readPair (hinv : t.readPair.Inv) (hb : t.bits.toNat < t.profile.bitCount.toNat)
    (hpair : t.cursor.toNat + 2 ≤ t.snap.toNat) (hsep : ¬ t.AtSeparator) :
    s.DecodePoint (1 + t.bits.toNat + extra + 1) t.readPair := by
  obtain ⟨rfl, hcursor⟩ := hp.cursor_of_bitsWanted hb
  have hbits : t.readPair.bits.toNat = t.bits.toNat + 1 := bits_add_one hb
  have htakes : s.TakesPair t.bits.toNat := (h.takesPair_iff hp hb).2 ⟨hpair, hsep⟩
  have hpassed : s.Passed t.readPair 0 := by
    refine ⟨?_, .inl rfl⟩
    have hnext : t.readPair.cursor.toNat = t.cursor.toNat + 2 := count_add_two hpair
    omega
  have hphase : s.Phase t.readPair (1 + t.readPair.bits.toNat + 0) := .decoding 0 hd hpassed
  rw [hbits] at hphase
  exact
    { h with
      inv := hinv
      result := by
        rw [State.command_readPair hb, hbits, h.result, h.durations, h.profile, hcursor]
        rfl
      taken := by
        rw [hbits]
        intro j hj
        obtain hj | rfl := Nat.lt_succ_iff_lt_or_eq.1 hj
        · exact h.taken j hj
        · exact htakes
      phase := hphase }

theorem State.DecodePoint.skipPair (hinv : t.skipPair.Inv) (hb : t.profile.bitCount.toNat ≤ t.bits.toNat)
    (hpair : t.cursor.toNat + 2 ≤ min t.snap.toNat t.profile.expectedStepCount.toNat) :
    s.DecodePoint (1 + t.bits.toNat + extra + 1) t.skipPair := by
  have hread : t.bits = t.profile.bitCount :=
    BitVec.eq_of_toNat_eq (Nat.le_antisymm (h.inv.bitsBounded (t.busy_iff.2 (.inr hd))) hb)
  have hnext : t.skipPair.cursor.toNat = t.cursor.toNat + 2 := count_add_two (x := t.snap) (by omega)
  have hpassed : s.Passed t.skipPair (extra + 1) := by
    refine ⟨?_, .inr ⟨hread, hnext.trans_le hpair⟩⟩
    rw [hnext, hp.cursor, State.skipPair_bits]
    omega
  exact { h with inv := hinv, phase := .decoding (extra + 1) hd hpassed }

end

theorem State.DecodePoint.finish {extra : Nat} (h : s.DecodePoint (1 + t.bits.toNat + extra) t)
    (hp : s.Passed t extra) (hinv : t.finish.Inv) (hend : t.AtEnd) :
    s.DecodePoint (1 + t.bits.toNat + extra + 1) t.finish := by
  rw [State.finish_of_clean h.clean] at hinv ⊢
  have hphase : s.Phase t.finishClean (2 + t.bits.toNat + extra) :=
    .finished extra t.terminalState_eq_pureTerminal { hp with } hend
  rw [show 2 + t.bits.toNat + extra = 1 + t.bits.toNat + extra + 1 by omega] at hphase
  exact { h with inv := hinv, phase := hphase }

theorem State.DecodePoint.dstep {u : State} (h : s.DecodePoint k t) (hx : execDstep t = .next u) :
    s.DecodePoint (k + 1) u := by
  have hinv : u.Inv := h.inv.exec (i := .dstep) hx
  cases h.phase with
  | waking hd =>
    cases (exec_dstep_of_awaitingWakeup hd).symm.trans hx
    exact h.wakeStep hinv hd
  | decoding extra hd hp =>
    obtain ⟨hi, hc⟩ := h.inv.readable_of_busy (t.busy_iff.2 (.inr hd))
    obtain ⟨hb, hpair, hsep, hnext⟩ | ⟨hb, hpair, hnext⟩ | ⟨hend, hnext⟩ := execDstep_of_decodingBits hi hc hd
    · cases hnext.symm.trans hx
      exact h.readPair hd hp hinv hb hpair hsep
    · cases hnext.symm.trans hx
      exact h.skipPair hd hp hinv hb hpair
    · cases hnext.symm.trans hx
      exact h.finish hp hinv hend
  | finished extra hd hp hend =>
    have hbusy := busy_of_execDstep hx
    rw [State.busy_iff, hd] at hbusy
    obtain hterm | hterm | hterm := pureTerminal_terminal t.command t.profile <;> simp [hterm] at hbusy

/-- Every point of a quiet run is one, by induction on the run. -/
theorem State.DecodePoint.of_quietRun {s1 : State} (h : s.DecodePoint 0 s1) (hrun : QuietRun s1 k t) :
    s.DecodePoint k t := by
  induction hrun with
  | refl => exact h
  | op _ hquiet hx ih =>
    obtain ⟨rfl, hstep⟩ | ⟨hne, readData, draws, rfl⟩ := quietOp_cases ih.init hquiet hx
    · rw [if_pos rfl]
      exact ih.dstep hstep
    · rw [if_neg hne]
      exact ih.read readData draws

theorem decodePoint_of_quietRun {s1 : State} (h : s.Inv) (hstart : exec .dstart s = .next s1)
    (hrun : QuietRun s1 k t) : s.DecodePoint k t :=
  (decodePoint_of_dstart h hstart).of_quietRun hrun

/-! ## The result of a quiet decode -/

/-- A terminal point is a finished one. -/
theorem State.DecodePoint.finished_of_terminal (h : s.DecodePoint k t) (hterm : t.terminal = true) :
    ∃ extra, k = 2 + t.bits.toNat + extra ∧ t.dstate = pureTerminal t.command t.profile ∧ s.Passed t extra ∧
      t.AtEnd := by
  cases h.phase with
  | waking hd => simp [State.terminal, hd] at hterm
  | decoding extra hd hp => simp [State.terminal, hd] at hterm
  | finished extra hd hp hend => exact ⟨extra, rfl, hd, hp, hend⟩

/-- The extra-steps phase passes every whole pair below `min(SNAP, P.expectedStepCount)` (R155). -/
theorem State.Passed.extra_eq_of_atEnd {extra : Nat} (h : s.Passed t extra) (hend : t.AtEnd) :
    extra = if t.bits = t.profile.bitCount then
      (min t.snap.toNat t.profile.expectedStepCount.toNat - (s.firstPair + 2 * t.bits.toNat)) / 2 else 0 := by
  have hcursor := h.cursor
  split
  next hbits =>
    have hnoExtra : min t.snap.toNat t.profile.expectedStepCount.toNat < t.cursor.toNat + 2 := by
      obtain ⟨hb, -⟩ | ⟨hb, -⟩ | ⟨-, hnone⟩ := hend
      · exact absurd (hbits ▸ hb) (Nat.lt_irrefl _)
      · exact absurd (hbits ▸ hb) (Nat.lt_irrefl _)
      · exact hnone
    obtain hzero | ⟨-, hle⟩ := h.extraOnly <;> omega
  next hmissing =>
    exact h.extraOnly.resolve_right fun hread => hmissing hread.1

end

/-- Settles O26: at the end the result is that of the pairs taken, and the pure function stops at the same pair. -/
theorem decodeComputesThePureFunction : Obligations.DecodeComputesThePureFunction := by
  unfold Obligations.DecodeComputesThePureFunction
  intro s s1 t k hinv hstart hrun hterm
  have h := decodePoint_of_quietRun hinv hstart hrun
  obtain ⟨extra, hk, hd, hp, hend⟩ := h.finished_of_terminal hterm
  have hextra := hp.extra_eq_of_atEnd hend
  rw [h.snap, h.profile] at hextra
  refine ⟨?_, by rw [hd, h.profile], h.smp, h.stepCount, h.profile, ?_⟩
  · rw [h.result, pureDecode_eq_firstPairs h.taken (h.not_takesPair_of_atEnd hp hend)]
  · intro start extra'
    obtain rfl : extra = extra' := hextra
    exact ⟨hk, hp.cursor⟩

/-- Settles O27: both decodes give the pure function of the same durations, count and profile. -/
theorem decodingTwiceGivesTheSameResult : Obligations.DecodingTwiceGivesTheSameResult := by
  unfold Obligations.DecodingTwiceGivesTheSameResult
  intro s s1 t t1 u k k' hinv hstart hrun hterm hstart' hrun' hterm'
  have h := decodePoint_of_quietRun hinv hstart hrun
  obtain ⟨hfirst, hd, -⟩ := decodeComputesThePureFunction s s1 t k hinv hstart hrun hterm
  obtain ⟨hsecond, hd', -⟩ := decodeComputesThePureFunction t t1 u k' h.inv hstart' hrun' hterm'
  rw [h.durations, h.stepCount, h.profile] at hsecond
  have hsame : u.command = t.command := hsecond.trans hfirst.symm
  obtain ⟨hcode, hbits, herror⟩ := DecodedCommand.mk.inj hsame
  exact ⟨hcode, BitVec.eq_of_toNat_eq hbits, herror, by rw [hd', hd, hsame, h.profile]⟩

theorem State.DecodePoint.code_eq {s t : State} {k : Nat} (h : s.DecodePoint k t) :
    t.code.toNat = msbFirst s.bitOf t.bits.toNat % 2 ^ 64 :=
  (congrArg (fun r => r.code.toNat) h.result).trans (s.firstPairs_code t.bits.toNat)

/-- While all bits fit in `CODE`, none has been shifted out. -/
theorem State.DecodePoint.code_eq_of_fits {s t : State} {k : Nat} (h : s.DecodePoint k t) (hfits : t.bits.toNat ≤ 64) :
    t.code.toNat = msbFirst s.bitOf t.bits.toNat := by
  rw [h.code_eq, Nat.mod_eq_of_lt]
  exact (msbFirst_lt s.bitOf_le_one _).trans_le (Nat.pow_le_pow_right Nat.two_pos hfits)

/-- Settles O28, by `State.DecodePoint.code_eq` and the sum of `msbFirst_eq_sum`. -/
theorem codeIsMostSignificantBitFirst : Obligations.CodeIsMostSignificantBitFirst := by
  unfold Obligations.CodeIsMostSignificantBitFirst
  intro s s1 t n hinv hstart hrun
  have h := decodePoint_of_quietRun hinv hstart hrun
  exact ⟨h.code_eq, fun hfits => (h.code_eq_of_fits hfits).trans (msbFirst_eq_sum s.bitOf _)⟩

/-! ## DECODE -/

theorem QuietRun.dsteps {s : State} {j : Nat} (k : Nat) {t u : State} (h : QuietRun s j t)
    (hrun : runOps (List.replicate k .dstep) t = .next u) : QuietRun s (j + k) u := by
  induction k generalizing j t with
  | zero =>
    cases hrun
    exact h
  | succ k ih =>
    obtain ⟨v, hx, hrun⟩ := runOps_cons_next hrun
    have hstep : QuietRun s (j + 1) v := h.op (i := .dstep) rfl hx
    rw [show j + (k + 1) = j + 1 + k by omega]
    exact ih hstep hrun

/-- With enough fuel, DSTEPs that end a decode are the ones DECODE makes: it stops where the decoder is not busy. -/
theorem dstepsWhileBusy_of_runOps (k : Nat) {fuel : Nat} {s t : State} (hfuel : k ≤ fuel)
    (hrun : runOps (List.replicate k .dstep) s = .next t) (hend : t.busy = false) :
    dstepsWhileBusy fuel s = .next t := by
  induction k generalizing fuel s with
  | zero =>
    cases hrun
    exact dstepsWhileBusy_of_not_busy hend fuel
  | succ k ih =>
    obtain ⟨fuel, rfl⟩ : ∃ n, fuel = n + 1 := ⟨fuel - 1, by omega⟩
    obtain ⟨u, hx, hrun⟩ := runOps_cons_next hrun
    rw [dstepsWhileBusy_succ (busy_of_execDstep hx) hx]
    exact ih (by omega) hrun

theorem State.not_busy_of_terminal {s : State} (h : s.terminal = true) : s.busy = false := by
  obtain hd | hd | hd := s.terminal_iff.1 h <;> simp [State.busy, hd]

/-- DECODE runs to a terminal point of a quiet decode: R142's bound is enough for it (R102). -/
theorem decodePoint_of_decodeCall {s t : State} (h : s.Inv) (hcall : decodeCall s = .next t) :
    ∃ k, s.DecodePoint k t ∧ t.terminal = true := by
  unfold decodeCall at hcall
  cases hstart : exec .dstart s with
  | next s1 =>
    simp only [hstart] at hcall
    obtain ⟨k, u, hk, hrun, hterm⟩ := decodeEndsWithinItsBound s s1 h hstart
    cases hcall.symm.trans (dstepsWhileBusy_of_runOps k hk hrun (State.not_busy_of_terminal hterm))
    exact ⟨_, decodePoint_of_quietRun h hstart (QuietRun.refl.dsteps k hrun), hterm⟩
  | fault f => simp [hstart] at hcall
  | refused r => simp [hstart] at hcall

/-- Settles O29: in (a) every bit taken is 0; in (b) the bit phase stops only when all bits are read, each a 1. -/
theorem uniformBurstsDecodeAsStated : Obligations.UniformBurstsDecodeAsStated := by
  unfold Obligations.UniformBurstsDecodeAsStated
  intro s t hinv hcall start wanted clean
  obtain ⟨k, h, hterm⟩ := decodePoint_of_decodeCall hinv hcall
  have herror : t.error = (s.firstPairs t.bits.toNat).error := congrArg DecodedCommand.error h.result
  refine ⟨fun hzeros => ?_, fun hones hall hfits => ?_⟩
  · have hshort (j : Nat) (hj : j < t.bits.toNat) := hzeros j (h.taken j hj).1
    have hbits : ∀ j < t.bits.toNat, s.bitOf j = 0 := fun j hj =>
      if_neg fun hone => BitVec.not_lt.2 (hshort j hj).2 hone.1
    refine ⟨BitVec.eq_of_toNat_eq ?_, herror.trans (State.firstPairs_error fun j hj => ?_)⟩
    · rw [h.code_eq, msbFirst_of_zeros hbits]
      rfl
    · obtain ⟨⟨hlo, -, -⟩, hhi⟩ := hshort j hj
      exact ⟨hlo, .inl hhi⟩
  · have hlong (j : Nat) (hj : j < t.bits.toNat) := hones j (h.taken j hj).1
    have hbits : ∀ j < t.bits.toNat, s.bitOf j = 1 := fun j hj => if_pos (hlong j hj).2
    have hpresent : s.firstPair + 2 * s.profile.bitCount.toNat ≤ s.stepCount.toNat := hall
    have hcount : t.bits.toNat = s.profile.bitCount.toNat := by
      obtain ⟨extra, -, -, hp, hend⟩ := h.finished_of_terminal hterm
      have hstop := h.not_takesPair_of_atEnd hp hend
      obtain hb | hb | hb := Nat.lt_trichotomy t.bits.toNat s.profile.bitCount.toNat
      · have hwants : s.WantsPair t.bits.toNat := ⟨hb, by omega⟩
        obtain ⟨⟨-, hlo, hhi⟩, -⟩ := hones t.bits.toNat hwants
        exact absurd ⟨hwants, hlo, hhi⟩ hstop
      · exact hb
      · obtain ⟨⟨hwanted, -⟩, -⟩ := h.taken _ hb
        exact absurd hwanted (Nat.lt_irrefl _)
    refine ⟨?_, herror.trans (State.firstPairs_error fun j hj => ?_)⟩
    · rw [h.code_eq_of_fits (hcount.trans_le hfits), msbFirst_of_ones hbits, hcount]
    · obtain ⟨⟨hlo, -, -⟩, -, hhi⟩ := hlong j hj
      exact ⟨hlo, .inr hhi⟩

end Sys2Proof.Machine

/-! The capture owner's operations: BCLR and PLOAD outside a decode window (R181, R182), and what RDREG and RDSMP
return (R184, R185). -/

namespace Sys2Proof.Machine

/-! ## BCLR and PLOAD -/

theorem State.busy_eq_false {s : State} (hw : s.dstate ≠ .awaitingWakeup) (hd : s.dstate ≠ .decodingBits) :
    s.busy = false :=
  Bool.eq_false_iff.2 fun hbusy => (s.busy_iff.1 hbusy).elim hw hd

theorem exec_bclr_of_busy {s : State} (hbusy : s.busy = true) : exec .bclr s = .refused .decoderBusy := by
  simp [exec, execBclr, hbusy]

theorem exec_bclr_of_not_busy {s : State} (hbusy : s.busy = false) : exec .bclr s = .next s.clearBuffer := by
  simp [exec, execBclr, hbusy]

theorem exec_pload_of_busy {s : State} (hbusy : s.busy = true) (p : Profile) :
    exec (.pload p) s = .refused .decoderBusy := by
  simp [exec, execPload, hbusy]

theorem exec_pload_of_not_busy {s : State} (hbusy : s.busy = false) (p : Profile) :
    exec (.pload p) s = .next (s.loadProfile p) := by
  simp [exec, execPload, hbusy]

/-- Settles O33: outside a decode window BCLR is `State.clearBuffer`, whose empty memory reads as cleared. -/
theorem bclrResetsTheBuffer : Obligations.BclrResetsTheBuffer := by
  unfold Obligations.BclrResetsTheBuffer
  refine ⟨⟨opcodeOfByte_eq_some_iff.2 rfl, rfl⟩, fun s => ⟨fun hbusy => ?_, fun hw hd => ?_⟩⟩
  · exact exec_bclr_of_busy (s.busy_iff.2 hbusy)
  · exact ⟨s.clearBuffer, exec_bclr_of_not_busy (State.busy_eq_false hw hd), SampleMem.read_nil, rfl, rfl, rfl, rfl,
      rfl, ⟨rfl, rfl, rfl, rfl, rfl, rfl⟩, ⟨rfl, rfl⟩, ⟨rfl, rfl⟩, ⟨rfl, rfl⟩⟩

/-- Settles O34: outside a decode window PLOAD is `State.loadProfile`. -/
theorem ploadSwapsTheProfileAsAUnit : Obligations.PloadSwapsTheProfileAsAUnit := by
  unfold Obligations.PloadSwapsTheProfileAsAUnit
  refine ⟨⟨opcodeOfByte_eq_some_iff.2 rfl, rfl⟩, fun s bc ex wk z1 nc sp => ⟨fun hbusy => ?_, fun hw hd => ?_⟩⟩
  · exact exec_pload_of_busy (s.busy_iff.2 hbusy) _
  · exact ⟨_, exec_pload_of_not_busy (State.busy_eq_false hw hd) _, rfl, rfl, rfl, rfl, rfl, rfl, rfl, rfl,
      ⟨rfl, rfl, rfl, rfl, rfl⟩, ⟨rfl, rfl, rfl, rfl, rfl, rfl⟩, ⟨rfl, rfl⟩, ⟨rfl, rfl⟩⟩

/-! ## RDREG -/

/-- The decoder's registers other than `DSTATE`, unspecified in `IDLE` (R184). -/
def resultRegs : List Reg := [.bits, .error, .code, .cursor, .snap]

/-- The profile's registers, unspecified before the first PLOAD (R184). -/
def profileRegs : List Reg :=
  [.bitCount, .expectedStepCount, .wakeupStepCount, .zeroOneThreshold, .noiseCeiling, .separatorThreshold]

theorem exists_resultReg {r : BitVec 4} (h : r = 2#4 ∨ r = 3#4 ∨ r = 4#4 ∨ r = 5#4 ∨ r = 6#4) :
    ∃ g ∈ resultRegs, numberOfReg g = r := by
  revert r; decide

theorem exists_profileReg {r : BitVec 4} (h : 8 ≤ r.toNat ∧ r.toNat ≤ 13) : ∃ g ∈ profileRegs, numberOfReg g = r := by
  revert r; decide

theorem State.regUnspecified_resultReg (s : State) {g : Reg} (hg : g ∈ resultRegs) :
    s.regUnspecified g = (s.dstate == .idle) := by
  revert g; simp [resultRegs, State.regUnspecified]

theorem State.regUnspecified_profileReg (s : State) {g : Reg} (hg : g ∈ profileRegs) :
    s.regUnspecified g = !s.ploaded := by
  revert g; simp [profileRegs, State.regUnspecified]

theorem exec_rdreg_of_reserved {s : State} {r : BitVec 4} (hr : regOfNumber r = none) :
    exec (.rdreg r) s = .refused .reservedRegister := by
  simp [exec, execRdreg, hr]

theorem exec_rdreg_of_unspecified {s : State} {g : Reg} (hg : s.regUnspecified g = true) :
    exec (.rdreg (numberOfReg g)) s = .next s.drawRead := by
  simp [exec, execRdreg, regOfNumber_numberOfReg, hg]

/-- A specified register reads as its value, zero-extended (R99). -/
theorem State.returnsReg_of_specified {s : State} {n : Nat} (g : Reg) (hg : s.regUnspecified g = false)
    (hn : (s.regValue g).toNat = n) : s.returnsReg (numberOfReg g) n := by
  simp [State.returnsReg, exec, execRdreg, regOfNumber_numberOfReg, hg, ← hn, State.setRead]

theorem State.returnsReg_resultReg {s : State} {n : Nat} (hd : s.dstate ≠ .idle) (g : Reg) (hg : g ∈ resultRegs)
    (hn : (s.regValue g).toNat = n) : s.returnsReg (numberOfReg g) n :=
  State.returnsReg_of_specified g ((s.regUnspecified_resultReg hg).trans (beq_eq_false_iff_ne.2 hd)) hn

theorem State.returnsReg_profileReg {s : State} {n : Nat} (hp : s.ploaded = true) (g : Reg) (hg : g ∈ profileRegs)
    (hn : (s.regValue g).toNat = n) : s.returnsReg (numberOfReg g) n :=
  State.returnsReg_of_specified g ((s.regUnspecified_profileReg hg).trans (by rw [hp, Bool.not_true])) hn

/-- Settles O36: a reserved number is no register's; every other read turns on `State.regUnspecified`, which is one
condition for each group of registers. -/
theorem rdregReturnsTheRegister : Obligations.RdregReturnsTheRegister := by
  unfold Obligations.RdregReturnsTheRegister
  refine ⟨fun r => ⟨opcodeOfByte_eq_some_iff.2 (by revert r; decide), rfl⟩, fun s => ⟨fun r hr => ?_, ?_, fun hi => ?_,
    ?_, fun hd => ⟨?_, ?_, ?_, ?_, ?_⟩, fun hp => ⟨?_, ?_, ?_, ?_, ?_, ?_⟩⟩⟩
  · exact exec_rdreg_of_reserved ((regOfNumber_none_iff r).2 hr)
  · rintro r (⟨rfl, hi⟩ | ⟨hr, hd⟩ | ⟨hr, hp⟩)
    · exact ⟨_, _, exec_rdreg_of_unspecified (g := .stepCount) (by rw [State.regUnspecified, hi, Bool.not_false])⟩
    · obtain ⟨g, hg, rfl⟩ := exists_resultReg hr
      exact ⟨_, _, exec_rdreg_of_unspecified ((s.regUnspecified_resultReg hg).trans (beq_iff_eq.2 hd))⟩
    · obtain ⟨g, hg, rfl⟩ := exists_profileReg hr
      exact ⟨_, _, exec_rdreg_of_unspecified ((s.regUnspecified_profileReg hg).trans (by rw [hp, Bool.not_false]))⟩
  · exact State.returnsReg_of_specified .stepCount (by rw [State.regUnspecified, hi, Bool.not_true]) rfl
  · refine State.returnsReg_of_specified .dstate rfl ?_
    rw [State.regValue]
    cases s.dstate <;> rfl
  · exact State.returnsReg_resultReg hd .bits (by decide) rfl
  · refine State.returnsReg_resultReg hd .error (by decide) ?_
    rw [State.regValue]
    cases s.error <;> rfl
  · exact State.returnsReg_resultReg hd .code (by decide) rfl
  · exact State.returnsReg_resultReg hd .cursor (by decide) rfl
  · exact State.returnsReg_resultReg hd .snap (by decide) rfl
  · exact State.returnsReg_profileReg hp .bitCount (by decide) rfl
  · exact State.returnsReg_profileReg hp .expectedStepCount (by decide) rfl
  · exact State.returnsReg_profileReg hp .wakeupStepCount (by decide) rfl
  · exact State.returnsReg_profileReg hp .zeroOneThreshold (by decide) rfl
  · exact State.returnsReg_profileReg hp .noiseCeiling (by decide) rfl
  · exact State.returnsReg_profileReg hp .separatorThreshold (by decide) rfl

/-! ## RDSMP -/

theorem exec_rdsmp_of_capacity_le {s : State} {idx : Count} (hidx : s.capacity.val ≤ idx.toNat) :
    exec (.rdsmp idx) s = .refused .indexOutOfRange := by
  simp [exec, execRdsmp, State.smpRead_none hidx]

/-- Before the first BCLR the sample is drawn (R42, R185). -/
theorem exec_rdsmp_of_not_init {s : State} {idx : Count} (hinit : s.init = false)
    (hidx : idx.toNat < s.capacity.val) :
    exec (.rdsmp idx) s = .next { s with
      readData := some (.sample (sampleWord (Config.freeSample s.draws idx.toNat))), draws := s.draws + 1 } := by
  simp [exec, execRdsmp, State.smpRead, hinit, Nat.not_le.2 hidx, State.setRead]

@[simp] theorem sampleWord_cleared : sampleWord Sample.cleared = 0#65 := by decide

/-- Settles O37: the word is that of the entry, and R40 (vii) has the entries from `STEPCOUNT` on cleared. -/
theorem rdsmpReturnsTheSampleWord : Obligations.RdsmpReturnsTheSampleWord := by
  unfold Obligations.RdsmpReturnsTheSampleWord
  refine ⟨⟨opcodeOfByte_eq_some_iff.2 rfl, rfl⟩, fun s idx => ⟨exec_rdsmp_of_capacity_le, fun hidx hinit => ?_,
    fun hidx hinit => ⟨sampleWord (s.entry idx.toNat), exec_rdsmp_of_init hinit hidx, ?_, fun hinv hcount => ?_⟩⟩⟩
  · exact ⟨_, _, exec_rdsmp_of_not_init hinit hidx⟩
  · rw [sampleWord_toNat]
    cases (s.entry idx.toNat).level <;> simp [levelBit]
  · rw [hinv.tailCleared hinit _ hcount, sampleWord_cleared]

end Sys2Proof.Machine

/-! What an EDGE does in the interrupt context reads nothing but the capture state (R214). -/

namespace Sys2Proof.Machine

/-! ## Two states with one capture state -/

section
variable {s s' : State} (h : SameCapture s s')
include h

theorem SameCapture.seed (now : Time) : SameCapture (s.seed now) (s'.seed now) :=
  ⟨rfl, rfl, h.smp, h.stepCount, h.init⟩

theorem SameCapture.commit (k : EdgeKind) (now : Time) : SameCapture (s.commit k now) (s'.commit k now) where
  lastEdge := rfl
  seeded := h.seeded
  smp := by simp only [State.commit_smp, h.smp, h.stepCount, h.lastEdge]
  stepCount := by simp only [State.commit_stepCount, h.stepCount]
  init := h.init

theorem SameCapture.noteWindow : SameCapture s.noteWindow s'.noteWindow :=
  ⟨h.lastEdge, h.seeded, h.smp, h.stepCount, h.init⟩

theorem SameCapture.accepts_eq (hcap : s'.capacity = s.capacity) : s'.accepts = s.accepts := by
  simp only [State.accepts, State.full, h.init, h.stepCount, hcap]

/-- Once the buffer was reset both states take the same path of `Edge(k, now)`. Before, the values are free (R42). -/
theorem SameCapture.edge (hcap : s'.capacity = s.capacity) (hinit : s.init = true) (k : EdgeKind) (now : Time) :
    SameCapture (s.edge k now) (s'.edge k now) := by
  have hinit' : s'.init = true := h.init.trans hinit
  obtain ⟨hni, -⟩ | ⟨-, hfull, heq⟩ | ⟨-, hroom, hseed, heq⟩ | ⟨-, hroom, hseed, heq⟩ := s.edge_cases k now
  · simp [hinit] at hni
  · rw [← hcap, ← h.stepCount] at hfull
    rwa [heq, State.edge_of_full hinit' hfull]
  · rw [← hcap, ← h.stepCount] at hroom
    rw [heq, State.edge_of_unseeded hinit' (h.seeded.trans hseed) hroom]
    exact h.noteWindow.seed now
  · rw [← hcap, ← h.stepCount] at hroom
    rw [heq, State.edge_of_seeded hinit' (h.seeded.trans hseed) hroom]
    exact h.noteWindow.commit k now

end

/-- Settles O14: both edges take one path, and `TAINT` is set where the edge is accepted in a decode window. -/
theorem interruptContextReadsCaptureOnly : Obligations.InterruptContextReadsCaptureOnly := by
  unfold Obligations.InterruptContextReadsCaptureOnly
  intro s s' k now h hcap hinit
  refine ⟨_, _, exec_edgeOp k now s, exec_edgeOp k now s', h.edge hcap hinit k now, fun hbusy htaint => ?_⟩
  simp only [State.edge_taint, htaint, hbusy, h.accepts_eq hcap]

end Sys2Proof.Machine

/-! What reset leaves and what an open decode window refuses (R240, R252). -/

namespace Sys2Proof.Machine

/-- R141 tests for a busy decoder third, so the refusal may be an earlier one. -/
theorem exec_dstart_of_busy {s : State} (hbusy : s.busy = true) : ∃ r, exec .dstart s = .refused r := by
  obtain ⟨-, hdstart⟩ := dstartFollowsItsProcedure
  obtain ⟨hnever, hnoProfile, hwindow, -⟩ := hdstart s
  cases hi : s.init with
  | false => exact ⟨_, hnever hi⟩
  | true =>
    cases hp : s.ploaded with
    | false => exact ⟨_, hnoProfile hi hp⟩
    | true => exact ⟨_, hwindow hi hp (s.busy_iff.1 hbusy)⟩

/-- Settles O35, by what each of the three operations does in a busy state. -/
theorem bufferAndProfileAreLockedWhileBusy : Obligations.BufferAndProfileAreLockedWhileBusy := by
  unfold Obligations.BufferAndProfileAreLockedWhileBusy
  exact fun s hbusy => ⟨exec_bclr_of_busy hbusy, exec_pload_of_busy hbusy, exec_dstart_of_busy hbusy⟩

/-- Settles O40: these are the values `State.powerOn` writes. -/
theorem powerOnGivesTheResetValues : Obligations.PowerOnGivesTheResetValues := by
  unfold Obligations.PowerOnGivesTheResetValues
  exact fun c => ⟨rfl, rfl, rfl, rfl, rfl⟩

end Sys2Proof.Machine
